-- ==== Sys2Proof/Word.lean ====
section
/-! DEFINITION. The word types of the packet frame parser and the all-zero byte sequence (spec/00_scope.md R7, R8). -/

namespace Sys2Proof

/-- A byte is 8 bits, bit 0 the least significant (R8). -/
abbrev Byte := BitVec 8

/-- A finite sequence of bytes; the byte at index 0 is the first on the wire (R8). -/
abbrev Bytes := List Byte

/-- A 16-bit wire value: sequence number, protocol version, window start and space (R7). -/
abbrev U16 := BitVec 16

/-- A 32-bit word: the `data2` length field and the diagnostic words of `RES` (R7, R26). -/
abbrev U32 := BitVec 32

/-- A 64-bit logical value, the session layer's unwrapped counter (R7). -/
abbrev U64 := BitVec 64

/-- `zeros(k)`: `k` bytes of 0x00 (R8). -/
abbrev zeros (k : Nat) : Bytes := List.replicate k 0

end Sys2Proof
end

