-- ==== Sys2Proof/Config.lean ====
section
/-! DEFINITION. The parameters of one built block (spec/00_scope.md R6): what an implementation fixes. -/

namespace Sys2Proof

/-- The values the source leaves unstated, each a named parameter of the model (R6).
They are fixed for the life of a block (R10, R33); `State.params` carries them and no step writes it. -/
structure Params where
  /-- `OPC_SYN`, the 4-bit wire opcode of SYN. -/
  opcSyn : BitVec 4
  /-- `OPC_ACK`. -/
  opcAck : BitVec 4
  /-- `OPC_KEEPALIVE`. -/
  opcKeepalive : BitVec 4
  /-- `OPC_DATA`. -/
  opcData : BitVec 4
  /-- `OPC_FIN`. -/
  opcFin : BitVec 4
  /-- `RSV_MARKER`, byte 16 of an encoded frame. -/
  rsvMarker : Byte
  /-- `RSV_VERSION`, byte 17 of an encoded frame. -/
  rsvVersion : Byte
  /-- `ROLE_UNDEFINED`, the wire byte of role UNDEFINED. -/
  roleUndefined : Byte
  /-- `ROLE_REQUESTOR`. -/
  roleRequestor : Byte
  /-- `ROLE_ACCEPTOR`. -/
  roleAcceptor : Byte
  /-- `MAX_FRAME`, the largest frame in bytes that `RXH ++ RXT` or `TX` can hold. -/
  maxFrame : Nat
deriving DecidableEq, Repr

namespace Params

/-- The defaults of R6. The opcodes, reserved bytes and roles are the spec's own defaults, which it takes from
general knowledge (93_implementation_defined.md G1 to G3); `MAX_FRAME` is OPEN in R6.
DESIGN CHOICE (log entry 4): 73, the value 95_test_vectors.md uses. Unsafe for a claim that rests on one of these numbers. -/
def default : Params where
  opcSyn := 0x0
  opcAck := 0x1
  opcKeepalive := 0x2
  opcData := 0x3
  opcFin := 0x4
  rsvMarker := 0x41
  rsvVersion := 0x01
  roleUndefined := 0x00
  roleRequestor := 0x01
  roleAcceptor := 0x02
  maxFrame := 73

/-- `MAX_DATA2 = MAX_FRAME − 23` (R6). -/
def maxData2 (p : Params) : Nat := p.maxFrame - 23

/-- The constraints from the source that bind every choice of the parameters (last column of R6):
five distinct opcodes, three distinct role bytes, 23 ≤ `MAX_FRAME` ≤ 23 + (2^32 − 1). -/
abbrev Legal (p : Params) : Prop :=
  [p.opcSyn, p.opcAck, p.opcKeepalive, p.opcData, p.opcFin].Nodup ∧
  [p.roleUndefined, p.roleRequestor, p.roleAcceptor].Nodup ∧
  23 ≤ p.maxFrame ∧ p.maxFrame ≤ 23 + (2 ^ 32 - 1)

end Params

end Sys2Proof
end

