-- ==== Sys2Proof/Syntax.lean ====
section
/-! DEFINITION. The instructions of the packet frame parser: one constructor for each row of spec/opcode_table.json
(R84), five frame variants and nine commands; their operand types; and the words that stand for them on the wire and
on the command port. -/

namespace Sys2Proof

/-- The five message variants, in the order of the internal selectors 0 to 4 (10_state.md R16, R29). -/
inductive Variant where
  | syn | ack | keepalive | data | fin
deriving DecidableEq, Repr

/-- The three roles, in the order of the internal selectors 0 to 2 (R21, R29). -/
inductive Role where
  | undefined | requestor | acceptor
deriving DecidableEq, Repr

/-- The fields of a frame that its opcode and its length do not already say (30_encoding.md R61).
The opcode is the constructor of `Instr`; the `data2` length field is `|data2|` (R66). -/
structure Frame where
  /-- Byte 0, `connection_id`. -/
  connId : Byte
  /-- Byte 1 bits 3:0, the data1-length nibble. -/
  nibble : BitVec 4
  /-- Bytes 2 and 3, `sequence_number`. -/
  seq : U16
  /-- Bytes 4 to 15, the raw `data1` slot. -/
  data1 : Bytes
  /-- Bytes 16 to 18, the reserved bytes. -/
  reserved : Bytes
  /-- Bytes 23 onward, `data2`. -/
  data2 : Bytes
deriving DecidableEq, Repr

/-- One instruction. The five frame variants are what PARSE executes when the frame under decode carries that
opcode (41_parse.md R108); the nine commands are what the host issues on the command port (30_encoding.md R78, R79).
Operands keep the width the port gives them, so an illegal selector is a value an instruction can carry (R80). -/
inductive Instr where
  /-- A received SYN frame (R120). -/
  | syn (f : Frame)
  /-- A received ACK frame (R122). -/
  | ack (f : Frame)
  /-- A received KEEPALIVE frame (R123). -/
  | keepalive (f : Frame)
  /-- A received DATA frame (R124). -/
  | data (f : Frame)
  /-- A received FIN frame (R125). -/
  | fin (f : Frame)
  /-- ENC_RAW (R91). -/
  | encRaw (var : BitVec 3) (cid : Byte) (seq : U64) (d1 d2 : Bytes)
  /-- PARSE (R109). -/
  | parse
  /-- ENC_SYN (R130). -/
  | encSyn (cid : Byte) (seq : U64) (scid : Byte) (ver : U16) (role : BitVec 2)
  /-- ENC_ACK (R132); `space` is two's-complement signed. -/
  | encAck (cid : Byte) (seq ws space : U64)
  /-- ENC_KEEPALIVE (R134); `space` is two's-complement signed. -/
  | encKeepalive (cid : Byte) (ws space : U64)
  /-- ENC_DATA (R135). -/
  | encData (cid : Byte) (seq : U64) (chunk : Bytes)
  /-- ENC_FIN (R136). -/
  | encFin (cid : Byte) (seq : U64) (reason : Byte)
  /-- EXT_SEQ (R150). -/
  | extSeq (logical : U64)
  /-- EXT_WS (R151). -/
  | extWs (logical : U64)
deriving DecidableEq, Repr

/-- The operand lines of the command port, one typed value each (R79). A command reads the lines R79 gives it and
no other. DESIGN CHOICE (log entry 8): one record of lines shared by the commands; safe, because the lines a command
does not read have no effect. -/
structure Operands where
  var : BitVec 3 := 0
  cid : Byte := 0
  seq : U64 := 0
  d1 : Bytes := []
  d2 : Bytes := []
  scid : Byte := 0
  ver : U16 := 0
  role : BitVec 2 := 0
  ws : U64 := 0
  space : U64 := 0
  chunk : Bytes := []
  reason : Byte := 0
  logical : U64 := 0
deriving DecidableEq, Repr

/-- What the host presents on the command port: a record `(code, operands)` (R78). -/
structure CommandWord where
  code : BitVec 4
  ops : Operands
deriving DecidableEq, Repr

/-- The word of an instruction: a command on the port, or the bytes of a frame in the receive buffers. -/
inductive InstrWord where
  | command (w : CommandWord)
  | frame (b : Bytes)
deriving DecidableEq, Repr

/-- The four parse failures with what they report (60_exceptions.md R161 to R164). -/
inductive ParseFailure where
  /-- `n` bytes are presented and 23 are needed (R161). -/
  | truncated (n : Nat)
  /-- A `data1` length and the bound it breaks (R162). -/
  | invalidLength (got bound : Nat)
  /-- The declared and the actual length of `data2` (R163). -/
  | lengthMismatch (declared actual : Nat)
  /-- The raw opcode nibble (R164). -/
  | unsupportedOpcode (op : BitVec 4)
deriving DecidableEq, Repr

/-- Why a word is no instruction, by name. -/
inductive DecodeReject where
  /-- The command code is 0x0 or 0xA to 0xF (R83). -/
  | undefinedCommand (code : BitVec 4)
  /-- The bytes are no well-formed frame (R170). -/
  | badFrame (e : ParseFailure)
deriving DecidableEq, Repr

/-- The outcome of decoding a word. -/
inductive Decoded where
  | instr (i : Instr)
  | reject (r : DecodeReject)
deriving DecidableEq, Repr

end Sys2Proof
end

