-- ==== Sys2Proof/WellFormed.lean ====
section
/-! DEFINITION. Which instructions are well formed: the legal operand values of 30_encoding.md R61, R66, R72, R79 and
R80. An ill-formed command is still executed: the block answers it with the reject the spec names (R168). -/

namespace Sys2Proof

/-- A frame's regions have the sizes of R61, and the frame fits `MAX_FRAME`. -/
def Frame.wellFormed (p : Params) (f : Frame) : Bool :=
  f.data1.length == 12 && f.reserved.length == 3 && decide (f.data2.length ≤ p.maxData2)

/-- Legal operands, constructor by constructor. -/
def Instr.wellFormed (p : Params) : Instr → Bool
  | .syn f => f.wellFormed p
  | .ack f => f.wellFormed p
  | .keepalive f => f.wellFormed p
  | .data f => f.wellFormed p && decide (f.nibble.toNat ≤ 12)
  | .fin f => f.wellFormed p
  | .encRaw var _ _ d1 d2 =>
    decide (var.toNat ≤ 4) && decide (d1.length ≤ 12) && decide (d2.length ≤ p.maxData2)
  | .parse => true
  | .encSyn _ _ _ _ role => decide (role.toNat ≤ 2)
  | .encAck _ _ _ _ => true
  | .encKeepalive _ _ _ => true
  | .encData _ _ chunk => decide (chunk.length ≤ 12 + p.maxData2)
  | .encFin _ _ _ => true
  | .extSeq _ => true
  | .extWs _ => true

end Sys2Proof
end

