-- ==== Sys2Proof/Decode.lean ====
section
/-! DEFINITION. The decoder, total on any command word and on any bytes, rejecting by name; and after it the encoder,
written from the same tables (30_encoding.md R61, R62, R73, R78, R79). The byte-order and bit-field helpers stand here. -/

namespace Sys2Proof

/-- `b[off .. off + k − 1]` (R8). -/
def slice (b : Bytes) (off k : Nat) : Bytes := (b.drop off).take k

/-- `be16(b)`: the high byte first (R8, R45). -/
def be16 (b : Bytes) : U16 := b.getD 0 0 ++ b.getD 1 0

/-- `to_be16(v) = [v[15:8], v[7:0]]` (R8). -/
def toBe16 (v : U16) : Bytes := [v.extractLsb' 8 8, v.extractLsb' 0 8]

/-- `le32(b)`: the low byte first (R8, R45). -/
def le32 (b : Bytes) : U32 := b.getD 3 0 ++ b.getD 2 0 ++ b.getD 1 0 ++ b.getD 0 0

/-- `to_le32(v)` (R8). -/
def toLe32 (v : U32) : Bytes :=
  [v.extractLsb' 0 8, v.extractLsb' 8 8, v.extractLsb' 16 8, v.extractLsb' 24 8]

/-- The opcode nibble `b[7:4]` (R62). -/
def highNibble (b : Byte) : BitVec 4 := b.extractLsb' 4 4

/-- The data1-length nibble `b[3:0]` (R62). -/
def lowNibble (b : Byte) : BitVec 4 := b.extractLsb' 0 4

/-- Byte 1: `(opcode << 4) | (data1_len & 0xF)` (R62). -/
def packNibbles (op nib : BitVec 4) : Byte := op ++ nib

/-- The wire opcode of a variant (R73). -/
def Params.opcode (p : Params) : Variant → BitVec 4
  | .syn => p.opcSyn
  | .ack => p.opcAck
  | .keepalive => p.opcKeepalive
  | .data => p.opcData
  | .fin => p.opcFin

/-- The variant a wire opcode selects, none for a reserved one (R73, R74, R109 step 8). -/
def Params.variantOf (p : Params) (op : BitVec 4) : Option Variant :=
  if op = p.opcSyn then some .syn
  else if op = p.opcAck then some .ack
  else if op = p.opcKeepalive then some .keepalive
  else if op = p.opcData then some .data
  else if op = p.opcFin then some .fin
  else none

/-- The frame instruction of a variant. -/
def Instr.ofFrame (f : Frame) : Variant → Instr
  | .syn => .syn f
  | .ack => .ack f
  | .keepalive => .keepalive f
  | .data => .data f
  | .fin => .fin f

/-- The fields of 23 or more bytes, by their offsets (R61). -/
def frameFields (b : Bytes) : Frame where
  connId := b.getD 0 0
  nibble := lowNibble (b.getD 1 0)
  seq := be16 (slice b 2 2)
  data1 := slice b 4 12
  reserved := slice b 16 3
  data2 := b.drop 23

/-- The frame instruction that bytes stand for, or the first failure in the order of R170. -/
def decodeFrame (p : Params) (b : Bytes) : Decoded :=
  if b.length < 23 then .reject (.badFrame (.truncated b.length))
  else
    let op := highNibble (b.getD 1 0)
    let f := frameFields b
    let declared := (le32 (slice b 19 4)).toNat
    if op = p.opcData ∧ 12 < f.nibble.toNat then
      .reject (.badFrame (.invalidLength f.nibble.toNat 12))
    else if declared = b.length - 23 then
      match p.variantOf op with
      | none => .reject (.badFrame (.unsupportedOpcode op))
      | some v => .instr (.ofFrame f v)
    else .reject (.badFrame (.lengthMismatch declared (b.length - 23)))

/-- The command a code selects, its operands read from the lines R79 names (R78, R79); 0x0 and 0xA to 0xF are
undefined (R83). -/
def decodeCommand (w : CommandWord) : Decoded :=
  let o := w.ops
  match w.code.toNat with
  | 0x1 => .instr (.encRaw o.var o.cid o.seq o.d1 o.d2)
  | 0x2 => .instr .parse
  | 0x3 => .instr (.encSyn o.cid o.seq o.scid o.ver o.role)
  | 0x4 => .instr (.encAck o.cid o.seq o.ws o.space)
  | 0x5 => .instr (.encKeepalive o.cid o.ws o.space)
  | 0x6 => .instr (.encData o.cid o.seq o.chunk)
  | 0x7 => .instr (.encFin o.cid o.seq o.reason)
  | 0x8 => .instr (.extSeq o.logical)
  | 0x9 => .instr (.extWs o.logical)
  | _ => .reject (.undefinedCommand w.code)

/-- The decoder. -/
def decode (p : Params) : InstrWord → Decoded
  | .command w => decodeCommand w
  | .frame b => decodeFrame p b

/-- The instruction of an outcome of decoding, where it is one. -/
def Decoded.instr? : Decoded → Option Instr
  | .instr i => some i
  | .reject _ => none

/-! ### The encoder -/

/-- The bytes of a frame with opcode `op`, in wire order (R61, R66, R67). -/
def frameBytes (op : BitVec 4) (f : Frame) : Bytes :=
  [f.connId, packNibbles op f.nibble] ++ toBe16 f.seq ++ f.data1 ++ f.reserved
    ++ toLe32 (BitVec.ofNat 32 f.data2.length) ++ f.data2

/-- The word of an instruction: a frame's bytes, or a command's code with its operands on their lines (R78, R79). -/
def encode (p : Params) : Instr → InstrWord
  | .syn f => .frame (frameBytes p.opcSyn f)
  | .ack f => .frame (frameBytes p.opcAck f)
  | .keepalive f => .frame (frameBytes p.opcKeepalive f)
  | .data f => .frame (frameBytes p.opcData f)
  | .fin f => .frame (frameBytes p.opcFin f)
  | .encRaw var cid seq d1 d2 =>
    .command { code := 0x1, ops := { var := var, cid := cid, seq := seq, d1 := d1, d2 := d2 } }
  | .parse => .command { code := 0x2, ops := {} }
  | .encSyn cid seq scid ver role =>
    .command { code := 0x3, ops := { cid := cid, seq := seq, scid := scid, ver := ver, role := role } }
  | .encAck cid seq ws space =>
    .command { code := 0x4, ops := { cid := cid, seq := seq, ws := ws, space := space } }
  | .encKeepalive cid ws space => .command { code := 0x5, ops := { cid := cid, ws := ws, space := space } }
  | .encData cid seq chunk => .command { code := 0x6, ops := { cid := cid, seq := seq, chunk := chunk } }
  | .encFin cid seq reason => .command { code := 0x7, ops := { cid := cid, seq := seq, reason := reason } }
  | .extSeq logical => .command { code := 0x8, ops := { logical := logical } }
  | .extWs logical => .command { code := 0x9, ops := { logical := logical } }

/-! ### The words of the opcode table

The table numbers a CMD row's four code bits 3:0 and a FRAME row's opcode bits 7:4 of frame byte 1, both in one byte.
DESIGN CHOICE (log entry 7): a byte whose high nibble is 0 and whose low nibble is not is a command code; every other
byte is byte 1 of a 23-byte frame whose other bytes are 0. Safe: only the host's reading of the table uses it. -/

/-- The first `k` bytes of `w`, the least significant first. -/
def natBytes : Nat → Nat → Bytes
  | 0, _ => []
  | k + 1, w => BitVec.ofNat 8 w :: natBytes k (w / 256)

/-- The word that the table's bits `w` stand for. With more than 8 bits given, `w` is a frame from its byte 0 on. -/
def tableWord (nbits w : Nat) : InstrWord :=
  if 8 < nbits then .frame (natBytes 23 w)
  else if w % 256 / 16 = 0 ∧ w % 16 ≠ 0 then .command { code := BitVec.ofNat 4 w, ops := {} }
  else .frame ((0 : Byte) :: BitVec.ofNat 8 w :: zeros 21)

/-- What the decoder reads from the table's bits `w`, with the default parameters the table is written for (R84). -/
def decodeTableWord (nbits w : Nat) : Option Instr :=
  (decode Params.default (tableWord nbits w)).instr?

end Sys2Proof
end

