-- ==== Sys2Proof/Machine/State.lean ====
section
/-! DEFINITION. Everything the spec gives the block (10_state.md R10 to R33) as plain data, the host's side of its
ports, the ways a command can fail, and the state after reset (R32). -/

namespace Sys2Proof.Machine

/-- The reasons a step can stop with a fault. The spec gives the block none: every command completes (R111). -/
inductive Fault where
  /-- Raised by `readNext` for a `MemRead` beyond the end of the buffer, which R42 leaves undefined.
  Safe: R109 and R114 say no read of PARSE reaches it. -/
  | readOutsideFrame
deriving DecidableEq, Repr

/-- The reasons a step can refuse. -/
inductive Refusal where
  /-- Raised by an arm of `exec` for an instruction with no meaning yet; no arm uses it. Safe. -/
  | notModelled (mnemonic : String)
  /-- Raised by `writeRxh` and `writeRxt` for a host write after which `RXH` and `RXT` together would exceed
  `MAX_FRAME`: "the model refuses it" (20_memory.md R41). Safe. -/
  | hostWriteTooLong
deriving DecidableEq, Repr

/-- The outcome codes of `RES.status` by name (R27); `Status.code` gives the numbers. -/
inductive Status where
  | ok | truncated | invalidLength | lengthMismatch | unsupportedOpcode | encodeReject | badCommand
deriving DecidableEq, Repr

/-- Why an ENC command is rejected (60_exceptions.md R168). -/
inductive EncodeReject where
  /-- Sub-reason 1: `|d1|` exceeds 12. -/
  | data1TooLong (len : Nat)
  /-- Sub-reason 2: `data2` exceeds `MAX_DATA2`. -/
  | data2TooLong (len : Nat)
  /-- Sub-reason 3: the variant selector is 5, 6 or 7. -/
  | badVariant (var : BitVec 3)
  /-- Sub-reason 4: the role selector is 3. -/
  | badRole (role : BitVec 2)
deriving DecidableEq, Repr

/-- Why a command is bad (R169). -/
inductive BadCommand where
  /-- Sub-reason 1: the code is 0x0 or 0xA to 0xF. -/
  | undefinedCode (code : BitVec 4)
  /-- Sub-reason 2: `MSG.valid = 0`. -/
  | noMessage
  /-- Sub-reason 3: EXT_WS on a message that is not ACK or KEEPALIVE. -/
  | wrongVariant (v : Variant)
  /-- Sub-reason 4: the field was already extended. -/
  | alreadyExtended
deriving DecidableEq, Repr

/-- What a command can raise (R160): a parse failure or one of the two rejects. -/
inductive Failure where
  | parse (e : ParseFailure)
  | encodeReject (e : EncodeReject)
  | badCommand (e : BadCommand)
deriving DecidableEq, Repr

/-- The message register `MSG` (R15 to R23). -/
structure Message where
  /-- 1 when `MSG` holds a decoded message (R15). -/
  valid : Bool
  /-- 3 bits by selector (R16). -/
  variant : Variant
  /-- R17. -/
  connId : Byte
  /-- 64 bits: the zero-extended wire value, or the operand of EXT_SEQ (R18). -/
  seq : U64
  /-- Set by EXT_SEQ (R18). -/
  seqExt : Bool
  /-- The logical length of `data1`, 0 to 12 (R19). -/
  d1len : BitVec 4
  /-- 12 bytes (R19). -/
  data1 : Bytes
  /-- R20. -/
  data2 : Bytes
  /-- SYN only (R21). -/
  senderConnId : Byte
  /-- SYN only (R21). -/
  version : U16
  /-- SYN only; 2 bits by selector (R21). -/
  role : Role
  /-- ACK and KEEPALIVE only (R22). -/
  windowStart : U64
  /-- Set by EXT_WS (R22). -/
  wsExt : Bool
  /-- ACK and KEEPALIVE only (R22). -/
  windowSpace : U16
  /-- FIN only (R23). -/
  reason : Byte
deriving DecidableEq, Repr

/-- The invalid message: valid 0 and every field 0 (R32). -/
def Message.invalid : Message where
  valid := false
  variant := .syn
  connId := 0
  seq := 0
  seqExt := false
  d1len := 0
  data1 := zeros 12
  data2 := []
  senderConnId := 0
  version := 0
  role := .undefined
  windowStart := 0
  wsExt := false
  windowSpace := 0
  reason := 0

/-- The result register `RES` (R26). -/
structure Res where
  cmd : BitVec 4
  status : Status
  info0 : U32
  info1 : U32
deriving DecidableEq, Repr

/-- One host action: a command on the port (R78), a host access (R41, R44), or reset, "an event from outside the
block, not a command" (R190). -/
inductive HostAction where
  | command (w : CommandWord)
  | wrRxh (b : Bytes)
  | wrRxt (b : Bytes)
  | rdTx
  | rdMsg
  | rdRes
  | reset
deriving DecidableEq, Repr

/-- What a host read returns (R44). -/
inductive Reply where
  /-- The bytes of `TX`. -/
  | tx (b : Bytes)
  /-- Every field of `MSG` and its two derived accessors (R25). -/
  | msg (m : Message) (payload : Bytes) (totalLength : Nat)
  /-- The four fields of `RES`. -/
  | res (r : Res)
deriving DecidableEq, Repr

/-- The six items of R10, then what the model holds beside them: the parameters, fixed for the life of the block, and
the host's side of its ports. -/
structure State where
  /-- `RXH` (R11). -/
  rxh : Bytes
  /-- `RXT` (R12). -/
  rxt : Bytes
  /-- `TX` (R14). -/
  tx : Bytes
  /-- `MSG` (R15). -/
  msg : Message
  /-- `RES` (R26). -/
  res : Res
  /-- The decode cursor (R30). -/
  pos : Nat
  /-- The parameters of R6. DESIGN CHOICE (log entry 3): held here so that `step` is a model of every legal choice;
  no step writes it. Safe. -/
  params : Params
  /-- The host actions still to come, the next one first (R52, R201). DESIGN CHOICE (log entry 1). Safe. -/
  port : List HostAction
  /-- What the last host read returned. DESIGN CHOICE (log entry 6). Safe. -/
  reply : Option Reply
deriving DecidableEq, Repr

/-- The state after reset (R32), with the default parameters and nothing presented on the ports. -/
def State.reset : State where
  rxh := []
  rxt := []
  tx := []
  msg := .invalid
  res := { cmd := 0, status := .ok, info0 := 0, info1 := 0 }
  pos := 0
  params := .default
  port := []
  reply := none

/-- What an operation of this machine answers. -/
abbrev Out := Host.Outcome State Fault Refusal

end Sys2Proof.Machine
end

