-- ==== Sys2Proof/Machine/Flags.lean ====
section
/-! DEFINITION. The block's flag-like bits (10_state.md R31): the codes of `RES.status` (R27), the diagnostic words of a
failure (R28), and the conditions the extend commands read from `MSG`. -/

namespace Sys2Proof.Machine

/-- The number of an outcome (R27). -/
def Status.code : Status → BitVec 3
  | .ok => 0
  | .truncated => 1
  | .invalidLength => 2
  | .lengthMismatch => 3
  | .unsupportedOpcode => 4
  | .encodeReject => 5
  | .badCommand => 6

/-- The internal selector of a variant (R29). -/
def variantSelector : Variant → BitVec 3
  | .syn => 0
  | .ack => 1
  | .keepalive => 2
  | .data => 3
  | .fin => 4

/-- The internal selector of a role (R29). -/
def roleSelector : Role → BitVec 2
  | .undefined => 0
  | .requestor => 1
  | .acceptor => 2

/-- The status a failure records (R27, R160). -/
def Failure.status : Failure → Status
  | .parse (.truncated _) => .truncated
  | .parse (.invalidLength _ _) => .invalidLength
  | .parse (.lengthMismatch _ _) => .lengthMismatch
  | .parse (.unsupportedOpcode _) => .unsupportedOpcode
  | .encodeReject _ => .encodeReject
  | .badCommand _ => .badCommand

/-- The first diagnostic word (R28, R161 to R164, R168, R169), before `trunc_32`. -/
def Failure.word0 : Failure → Nat
  | .parse (.truncated n) => n
  | .parse (.invalidLength got _) => got
  | .parse (.lengthMismatch declared _) => declared
  | .parse (.unsupportedOpcode op) => op.toNat
  | .encodeReject (.data1TooLong _) => 1
  | .encodeReject (.data2TooLong _) => 2
  | .encodeReject (.badVariant _) => 3
  | .encodeReject (.badRole _) => 4
  | .badCommand (.undefinedCode _) => 1
  | .badCommand .noMessage => 2
  | .badCommand (.wrongVariant _) => 3
  | .badCommand .alreadyExtended => 4

/-- The second diagnostic word (R28, R161 to R164, R168, R169), before `trunc_32`. -/
def Failure.word1 : Failure → Nat
  | .parse (.truncated _) => 23
  | .parse (.invalidLength _ bound) => bound
  | .parse (.lengthMismatch _ actual) => actual
  | .parse (.unsupportedOpcode _) => 0
  | .encodeReject (.data1TooLong len) => len
  | .encodeReject (.data2TooLong len) => len
  | .encodeReject (.badVariant var) => var.toNat
  | .encodeReject (.badRole role) => role.toNat
  | .badCommand (.undefinedCode code) => code.toNat
  | .badCommand .noMessage => 0
  | .badCommand (.wrongVariant v) => (variantSelector v).toNat
  | .badCommand .alreadyExtended => 0

/-- What `RES` holds after a success (R165). -/
def Res.success (cmd : BitVec 4) : Res := { cmd := cmd, status := .ok, info0 := 0, info1 := 0 }

/-- What `RES` holds after a failure: "Every value is reduced with `trunc_32`" (R28, R166, R167). -/
def Res.failure (cmd : BitVec 4) (e : Failure) : Res where
  cmd := cmd
  status := e.status
  info0 := BitVec.ofNat 32 e.word0
  info1 := BitVec.ofNat 32 e.word1

/-- The variants that have a `window_start` (R151). -/
def hasWindow : Variant → Bool
  | .ack => true
  | .keepalive => true
  | .syn => false
  | .data => false
  | .fin => false

end Sys2Proof.Machine
end

