-- ==== Sys2Proof/Machine/Ops.lean ====
section
/-! DEFINITION. The named operations over the buffers and the registers (20_memory.md R40 to R49), and how a command
ends: `done` (60_exceptions.md R165) and `raise`, the one operation through which every failure is taken (R166, R167).
Nothing is returned from: the next command simply overwrites `RES` (R172). -/

namespace Sys2Proof.Machine

/-! ### Register updates -/

def State.setRxh (b : Bytes) (s : State) : State := { s with rxh := b }
def State.setRxt (b : Bytes) (s : State) : State := { s with rxt := b }
def State.setTx (b : Bytes) (s : State) : State := { s with tx := b }
def State.setMsg (m : Message) (s : State) : State := { s with msg := m }
def State.setRes (r : Res) (s : State) : State := { s with res := r }
def State.setPos (k : Nat) (s : State) : State := { s with pos := k }
def State.setPort (acts : List HostAction) (s : State) : State := { s with port := acts }
def State.setReply (r : Reply) (s : State) : State := { s with reply := some r }

/-! ### Views -/

/-- The frame under decode, `F = RXH ++ RXT` (R13). -/
def State.rx (s : State) : Bytes := s.rxh ++ s.rxt

/-- One byte of a buffer space; an offset at or beyond the length does not exist (R40, R51). -/
def byteAt (b : Bytes) (off : Nat) : Option Byte := b[off]?

/-- `MSG.payload = MSG.data1[0 .. d1len − 1] ++ MSG.data2` (R25). -/
def Message.payload (m : Message) : Bytes := m.data1.take m.d1len.toNat ++ m.data2

/-- `MSG.total_length = 23 + |MSG.data2|` (R25). -/
def Message.totalLength (m : Message) : Nat := 23 + m.data2.length

/-- The capacities of R11, R12 and R14. A byte sequence is its own canonical form: offsets rise from 0, and an offset
beyond its length reads as no value (log entry 12). -/
def Memory.wf (s : State) : Bool :=
  decide (s.rxh.length + s.rxt.length ≤ s.params.maxFrame) && decide (s.tx.length ≤ s.params.maxFrame)

/-! ### Memory -/

/-- `MemRead(space, off, k)`: "defined only when `off + k ≤ n`" (R42). -/
def memRead (b : Bytes) (off k : Nat) : Option Bytes :=
  if off + k ≤ b.length then some (slice b off k) else none

/-- `MemWrite(space, off, |w|, w)`: offset `off + i` becomes `w[i]` (R43). -/
def memWrite (b : Bytes) (off : Nat) (w : Bytes) : Bytes :=
  b.take off ++ w ++ b.drop (off + w.length)

/-- PARSE's read of its next `k` bytes: `MemRead(RX, pos, k)`, then `pos <- pos + k` (R30, R109). -/
def readNext (k : Nat) (s : State) (next : Bytes → State → Out) : Out :=
  match memRead s.rx s.pos k with
  | some b => next b (s.setPos (s.pos + k))
  | none => .fault .readOutsideFrame

/-- An ENC command's write: the whole of `TX` is replaced, "so no byte of an earlier frame survives" (R14, R43). -/
def emitFrame (b : Bytes) (s : State) : State := s.setTx (memWrite [] 0 b)

/-! ### The end of a command -/

/-- The state after a command with code `cmd` raised `e`: a parse failure leaves the invalid message (R166), an
`EncodeReject` empties `TX`, a `BadCommand` touches nothing but `RES` (R167). -/
def State.afterFailure (cmd : BitVec 4) (e : Failure) (s : State) : State :=
  let s := s.setRes (Res.failure cmd e)
  match e with
  | .parse _ => s.setMsg .invalid
  | .encodeReject _ => s.setTx []
  | .badCommand _ => s

/-- `raise`: the command ends at once with a failure (R8, R166, R167). -/
def raise (cmd : BitVec 4) (e : Failure) (s : State) : Out := .next (s.afterFailure cmd e)

/-- `done`: the command ends successfully (R8, R165). -/
def done (cmd : BitVec 4) (s : State) : Out := .next (s.setRes (Res.success cmd))

end Sys2Proof.Machine
end

