-- ==== Sys2Proof/Machine/Operands.lean ====
section
/-! DEFINITION. The operand forms of the commands and the block's whole arithmetic (30_encoding.md R77; 42_variants.md
R121, R131, R133). -/

namespace Sys2Proof.Machine

/-- `trunc_16` of a 64-bit value (R8, R77). -/
def trunc16 (v : U64) : U16 := v.setWidth 16

/-- `zext_64` of a 16-bit value; "never sign extension" (R77). -/
def zext64 (v : U16) : U64 := v.setWidth 64

/-- `clamp0(s)` of a signed 64-bit value (R77). -/
def clamp0 (s : U64) : U64 := if s.toInt < 0 then 0 else s

/-- `data1 ++ zeros(12 − |data1|)` (R64). -/
def pad12 (d1 : Bytes) : Bytes := d1 ++ zeros (12 - d1.length)

/-- The variant a selector names; 5 to 7 are illegal (R29). -/
def selectVariant (var : BitVec 3) : Option Variant :=
  match var.toNat with
  | 0 => some .syn
  | 1 => some .ack
  | 2 => some .keepalive
  | 3 => some .data
  | 4 => some .fin
  | _ => none

/-- The role a selector names; 3 is illegal (R29). -/
def selectRole (role : BitVec 2) : Option Role :=
  match role.toNat with
  | 0 => some .undefined
  | 1 => some .requestor
  | 2 => some .acceptor
  | _ => none

/-- `RoleDecode`: a byte that is none of the three roles is UNDEFINED (R121). -/
def roleDecode (p : Params) (b : Byte) : Role :=
  if b = p.roleRequestor then .requestor else if b = p.roleAcceptor then .acceptor else .undefined

/-- `RoleEncode` (R131). -/
def roleEncode (p : Params) : Role → Byte
  | .undefined => p.roleUndefined
  | .requestor => p.roleRequestor
  | .acceptor => p.roleAcceptor

/-- The `data1` of an ACK or KEEPALIVE: the clamp of `space` comes before its truncation (R133). -/
def windowBytes (ws space : U64) : Bytes :=
  toBe16 (trunc16 ws) ++ toBe16 (trunc16 (clamp0 space)) ++ zeros 8

/-- The `data1` of a SYN: the role is the byte 0x00 when the version is below 1 (R130). -/
def synBytes (p : Params) (scid : Byte) (ver : U16) (role : Role) : Bytes :=
  [scid] ++ toBe16 ver ++ [if 1 ≤ ver.toNat then roleEncode p role else 0x00] ++ zeros 8

/-- The `data1` of a FIN (R136). -/
def finBytes (reason : Byte) : Bytes := [reason] ++ zeros 11

/-- The data1-length nibble an encoder writes: `|d1|` for DATA and 0 otherwise (R61, R90). -/
def encodedNibble (v : Variant) (d1 : Bytes) : BitVec 4 :=
  if v = .data then BitVec.ofNat 4 d1.length else 0

/-- The reserved bytes an encoder writes (R65). -/
def reservedBytes (p : Params) : Bytes := [p.rsvMarker, p.rsvVersion, 0x00]

/-- `EncodeFrame(var, cid, seq, d1, d2)` (40_codec_encode.md R90). -/
def encodeFrame (p : Params) (v : Variant) (cid : Byte) (seq : U64) (d1 d2 : Bytes) : Bytes :=
  frameBytes (p.opcode v)
    { connId := cid, nibble := encodedNibble v d1, seq := trunc16 seq, data1 := pad12 d1,
      reserved := reservedBytes p, data2 := d2 }

end Sys2Proof.Machine
end

