-- ==== Sys2Proof/Machine/Encode.lean ====
section
/-! DEFINITION. The six ENC commands (40_codec_encode.md R91; 42_variants.md R130 to R136). Each ends in `emit`, writes
`TX` and `RES` and nothing else, and never reads `MSG`, `RXH` or `RXT` (R93). -/

namespace Sys2Proof.Machine

/-- `TX <- EncodeFrame(...)`, then `done` (R90, R91). -/
def emit (cmd : BitVec 4) (v : Variant) (cid : Byte) (seq : U64) (d1 d2 : Bytes) (s : State) : Out :=
  done cmd (emitFrame (encodeFrame s.params v cid seq d1 d2) s)

/-- ENC_RAW (R91): the selector is tested first, then `|d1|`, then `|d2|`. -/
def execEncRaw (var : BitVec 3) (cid : Byte) (seq : U64) (d1 d2 : Bytes) (s : State) : Out :=
  match selectVariant var with
  | none => raise 0x1 (.encodeReject (.badVariant var)) s
  | some v =>
    if 12 < d1.length then raise 0x1 (.encodeReject (.data1TooLong d1.length)) s
    else if s.params.maxData2 < d2.length then raise 0x1 (.encodeReject (.data2TooLong d2.length)) s
    else emit 0x1 v cid seq d1 d2 s

/-- ENC_SYN (R130): the role selector is tested even when the version is 0. -/
def execEncSyn (cid : Byte) (seq : U64) (scid : Byte) (ver : U16) (role : BitVec 2) (s : State) : Out :=
  match selectRole role with
  | none => raise 0x3 (.encodeReject (.badRole role)) s
  | some r => emit 0x3 .syn cid seq (synBytes s.params scid ver r) [] s

/-- ENC_ACK (R132). -/
def execEncAck (cid : Byte) (seq ws space : U64) (s : State) : Out :=
  emit 0x4 .ack cid seq (windowBytes ws space) [] s

/-- ENC_KEEPALIVE (R134): the sequence number is 0. -/
def execEncKeepalive (cid : Byte) (ws space : U64) (s : State) : Out :=
  emit 0x5 .keepalive cid 0 (windowBytes ws space) [] s

/-- ENC_DATA (R135): the first 12 bytes of the chunk go to `data1`, the rest to `data2`. -/
def execEncData (cid : Byte) (seq : U64) (chunk : Bytes) (s : State) : Out :=
  let k := min 12 chunk.length
  if s.params.maxData2 < chunk.length - k then
    raise 0x6 (.encodeReject (.data2TooLong (chunk.length - k))) s
  else emit 0x6 .data cid seq (chunk.take k) (chunk.drop k) s

/-- ENC_FIN (R136). -/
def execEncFin (cid : Byte) (seq : U64) (reason : Byte) (s : State) : Out :=
  emit 0x7 .fin cid seq (finBytes reason) [] s

end Sys2Proof.Machine
end

