-- ==== Sys2Proof/Machine/Extend.lean ====
section
/-! DEFINITION. EXT_SEQ and EXT_WS (43_extend.md R150 to R155). -/

namespace Sys2Proof.Machine

/-- EXT_SEQ (R150): valid is tested first, then already extended; the operand is not compared with anything (R153). -/
def execExtSeq (logical : U64) (s : State) : Out :=
  if s.msg.valid = false then raise 0x8 (.badCommand .noMessage) s
  else if s.msg.seqExt = true then raise 0x8 (.badCommand .alreadyExtended) s
  else done 0x8 (s.setMsg { s.msg with seq := logical, seqExt := true })

/-- EXT_WS (R151): valid, then variant, then already extended. -/
def execExtWs (logical : U64) (s : State) : Out :=
  if s.msg.valid = false then raise 0x9 (.badCommand .noMessage) s
  else if hasWindow s.msg.variant = false then raise 0x9 (.badCommand (.wrongVariant s.msg.variant)) s
  else if s.msg.wsExt = true then raise 0x9 (.badCommand .alreadyExtended) s
  else done 0x9 (s.setMsg { s.msg with windowStart := logical, wsExt := true })

end Sys2Proof.Machine
end

