-- ==== Sys2Proof/Machine/HostPort.lean ====
section
/-! DEFINITION. What the host can do beside issuing a defined command: an undefined command code (30_encoding.md R83),
the buffer writes and the reads (20_memory.md R41, R44), reset (70_reset_and_hazards.md R190), and the
pseudo-instructions (30_encoding.md R82). -/

namespace Sys2Proof.Machine

/-- An undefined command code completes as `BadCommand` and changes nothing else (R83, R169). -/
def execUndefined (code : BitVec 4) (s : State) : Out := raise code (.badCommand (.undefinedCode code)) s

/-- `WR_RXH(b)`: replaces `RXH` and invalidates `MSG`; a write beyond `MAX_FRAME` is refused (R41). -/
def writeRxh (b : Bytes) (s : State) : Out :=
  if b.length + s.rxt.length ≤ s.params.maxFrame then .next ((s.setRxh b).setMsg .invalid)
  else .refused .hostWriteTooLong

/-- `WR_RXT(b)` (R41). -/
def writeRxt (b : Bytes) (s : State) : Out :=
  if s.rxh.length + b.length ≤ s.params.maxFrame then .next ((s.setRxt b).setMsg .invalid)
  else .refused .hostWriteTooLong

/-- `RD_TX`: returns `TX`; a read has no side effect on the block (R44). -/
def readTx (s : State) : Out := .next (s.setReply (.tx s.tx))

/-- `RD_MSG`: returns every field of `MSG` and the derived accessors (R44). -/
def readMsg (s : State) : Out := .next (s.setReply (.msg s.msg s.msg.payload s.msg.totalLength))

/-- `RD_RES`: returns the four fields of `RES` (R44). -/
def readRes (s : State) : Out := .next (s.setReply (.res s.res))

/-- Reset: every state item takes its value of R32 (R190). The parameters are fixed when the block is built (R192), and
the host keeps its own actions and what it has read (log entry 9). -/
def resetBlock (s : State) : Out :=
  .next { State.reset with params := s.params, port := s.port, reply := s.reply }

/-! ### Pseudo-instructions: "an abbreviation of host actions and nothing more" (30_encoding.md R82) -/

/-- `LOAD b`: the nominal split at the end of the pseudo-header (R82). -/
def loadActions (b : Bytes) : List HostAction := [.wrRxh (b.take 16), .wrRxt (b.drop 16)]

/-- `LOOPBACK` issued in state `s`: `b <- RD_TX`, then `LOAD b`. What the read returns is the `TX` of `s`, since
nothing lies between (R52, R82). -/
def State.loopbackActions (s : State) : List HostAction := .rdTx :: loadActions s.tx

/-- `LOOPBACK k` issued in state `s`: `b <- RD_TX`, then the two writes with the split at byte `k` (R82). -/
def State.loopbackAtActions (k : Nat) (s : State) : List HostAction :=
  [.rdTx, .wrRxh (s.tx.take k), .wrRxt (s.tx.drop k)]

/-- The host issues actions now, before those still to come. -/
def State.issue (acts : List HostAction) (s : State) : State := s.setPort (acts ++ s.port)

end Sys2Proof.Machine
end

