-- ==== Sys2Proof/Machine/Variants.lean ====
section
/-! DEFINITION. The five frame variants: the constructors PARSE dispatches to (42_variants.md R120 to R126), and the
frame instructions built on them. A frame instruction is what PARSE does with a frame of that opcode whose length
field is right (41_parse.md R104, R108 to R110; log entry 7). -/

namespace Sys2Proof.Machine

/-- What a constructor answers: the message, or the failure it raises. -/
abbrev Built := Message ⊕ ParseFailure

/-- ConstructSyn (R120). -/
def constructSyn (p : Params) (m : Message) (d1 : Bytes) (len : Nat) : Built :=
  if len < 3 then .inr (.invalidLength len 3)
  else
    let ver := be16 (slice d1 1 2)
    let role := if 1 ≤ ver.toNat ∧ 4 ≤ len then roleDecode p (d1.getD 3 0) else .undefined
    .inl { m with senderConnId := d1.getD 0 0, version := ver, role := role }

/-- ConstructAck (R122). -/
def constructAck (m : Message) (d1 : Bytes) (len : Nat) : Built :=
  if len < 4 then .inr (.invalidLength len 4)
  else .inl { m with windowStart := zext64 (be16 (slice d1 0 2)), windowSpace := be16 (slice d1 2 2) }

/-- ConstructKeepAlive: the body of ConstructAck (R123). -/
def constructKeepalive (m : Message) (d1 : Bytes) (len : Nat) : Built :=
  if len < 4 then .inr (.invalidLength len 4)
  else .inl { m with windowStart := zext64 (be16 (slice d1 0 2)), windowSpace := be16 (slice d1 2 2) }

/-- ConstructData: "no minimum length"; nothing more to do (R124). -/
def constructData (m : Message) (_d1 : Bytes) (_len : Nat) : Built := .inl m

/-- ConstructFin (R125). -/
def constructFin (m : Message) (d1 : Bytes) (len : Nat) : Built :=
  if len < 1 then .inr (.invalidLength len 1) else .inl { m with reason := d1.getD 0 0 }

/-- The fields of `M` that PARSE writes before it dispatches (R109). -/
def receivedMessage (v : Variant) (f : Frame) (d1 : Bytes) (len : Nat) : Message :=
  { Message.invalid with
    valid := true, variant := v, connId := f.connId, seq := zext64 f.seq, seqExt := false,
    d1len := BitVec.ofNat 4 len, data1 := d1, data2 := f.data2, wsExt := false }

/-- `pos = n`, then `MSG <- M` and `done`, or the constructor's failure (R109, R110, R166). -/
def receive (f : Frame) (built : Built) (s : State) : Out :=
  let s := s.setPos (23 + f.data2.length)
  match built with
  | .inl m => done 0x2 (s.setMsg m)
  | .inr e => raise 0x2 (.parse e) s

/-- A SYN frame: all 12 bytes of `data1` are kept (R104, R120). -/
def execSyn (f : Frame) (s : State) : Out :=
  receive f (constructSyn s.params (receivedMessage .syn f f.data1 12) f.data1 12) s

/-- An ACK frame (R104, R122). -/
def execAck (f : Frame) (s : State) : Out :=
  receive f (constructAck (receivedMessage .ack f f.data1 12) f.data1 12) s

/-- A KEEPALIVE frame (R104, R123). -/
def execKeepalive (f : Frame) (s : State) : Out :=
  receive f (constructKeepalive (receivedMessage .keepalive f f.data1 12) f.data1 12) s

/-- The logical content of a DATA frame's `data1`: the first `len` bytes, the tail zeroed (R19, R104). -/
def dataSlot (raw : Bytes) (len : Nat) : Bytes := raw.take len ++ zeros (12 - len)

/-- A DATA frame: a nibble above 12 is `InvalidLength` with the cursor at 16; otherwise the nibble is the logical
length (R104, R124, R166). -/
def execData (f : Frame) (s : State) : Out :=
  let len := f.nibble.toNat
  if 12 < len then raise 0x2 (.parse (.invalidLength len 12)) (s.setPos 16)
  else
    let d1 := dataSlot f.data1 len
    receive f (constructData (receivedMessage .data f d1 len) d1 len) s

/-- A FIN frame (R104, R125). -/
def execFin (f : Frame) (s : State) : Out :=
  receive f (constructFin (receivedMessage .fin f f.data1 12) f.data1 12) s

end Sys2Proof.Machine
end

