-- ==== Sys2Proof/Machine/Parse.lean ====
section
/-! DEFINITION. PARSE (41_parse.md R100 to R114): the eight steps of R109 in their order, each read through
`MemRead` at the decode cursor. -/

namespace Sys2Proof.Machine

/-- Step 8: exactly one variant's constructor runs (R108). -/
def dispatchFrame (f : Frame) (s : State) : Variant → Out
  | .syn => execSyn f s
  | .ack => execAck f s
  | .keepalive => execKeepalive f s
  | .data => execData f s
  | .fin => execFin f s

/-- PARSE (R109). -/
def execParse (s : State) : Out :=
  let n := s.rx.length
  let s := s.setPos 0
  if n < 23 then raise 0x2 (.parse (.truncated n)) s
  else
    readNext 1 s fun cid s =>
    readNext 1 s fun b1 s =>
    let op := highNibble (b1.getD 0 0)
    let dl := lowNibble (b1.getD 0 0)
    readNext 2 s fun sq s =>
    readNext 12 s fun raw s =>
    if op = s.params.opcData ∧ 12 < dl.toNat then raise 0x2 (.parse (.invalidLength dl.toNat 12)) s
    else
      readNext 3 s fun rsv s =>
      readNext 4 s fun len s =>
      let declared := (le32 len).toNat
      if declared = n - 23 then
        readNext (n - 23) s fun d2 s =>
        match s.params.variantOf op with
        | none => raise 0x2 (.parse (.unsupportedOpcode op)) s
        | some v =>
          dispatchFrame
            { connId := cid.getD 0 0, nibble := dl, seq := be16 sq, data1 := raw, reserved := rsv, data2 := d2 } s v
      else raise 0x2 (.parse (.lengthMismatch declared (n - 23))) s

end Sys2Proof.Machine
end

