-- ==== Sys2Proof/Machine/Dispatch.lean ====
section
/-! DEFINITION. The meaning of every instruction, one arm for each constructor. -/

namespace Sys2Proof.Machine

def exec (i : Instr) (s : State) : Host.Outcome State Fault Refusal :=
  match i with
  | .syn f => Sys2Proof.Machine.execSyn f s
  | .ack f => Sys2Proof.Machine.execAck f s
  | .keepalive f => Sys2Proof.Machine.execKeepalive f s
  | .data f => Sys2Proof.Machine.execData f s
  | .fin f => Sys2Proof.Machine.execFin f s
  | .encRaw var cid seq d1 d2 => Sys2Proof.Machine.execEncRaw var cid seq d1 d2 s
  | .parse => Sys2Proof.Machine.execParse s
  | .encSyn cid seq scid ver role => Sys2Proof.Machine.execEncSyn cid seq scid ver role s
  | .encAck cid seq ws space => Sys2Proof.Machine.execEncAck cid seq ws space s
  | .encKeepalive cid ws space => Sys2Proof.Machine.execEncKeepalive cid ws space s
  | .encData cid seq chunk => Sys2Proof.Machine.execEncData cid seq chunk s
  | .encFin cid seq reason => Sys2Proof.Machine.execEncFin cid seq reason s
  | .extSeq logical => Sys2Proof.Machine.execExtSeq logical s
  | .extWs logical => Sys2Proof.Machine.execExtWs logical s

end Sys2Proof.Machine
end

