-- ==== Sys2Proof/Machine/Run.lean ====
section
/-! DEFINITION. What the block does with one host action (30_encoding.md R78, R83; 20_memory.md R41, R44;
70_reset_and_hazards.md R190). -/

namespace Sys2Proof.Machine

/-- A command on the port: the decoded instruction runs, an undefined code is `BadCommand` (R78, R83). -/
def runCommand (w : CommandWord) (s : State) : Host.Outcome State Fault Refusal :=
  match decodeCommand w with
  | .instr i => exec i s
  | .reject _ => execUndefined w.code s

/-- One host action. -/
def runAction (a : HostAction) (s : State) : Host.Outcome State Fault Refusal :=
  match a with
  | .command w => runCommand w s
  | .wrRxh b => writeRxh b s
  | .wrRxt b => writeRxt b s
  | .rdTx => readTx s
  | .rdMsg => readMsg s
  | .rdRes => readRes s
  | .reset => resetBlock s

end Sys2Proof.Machine
end

