-- ==== Sys2Proof/Machine/Step.lean ====
section
/-! DEFINITION. One step: the block takes the next host action, wholly, before the one after it (20_memory.md R48, R52;
70_reset_and_hazards.md R194). -/

namespace Sys2Proof.Machine

/-- One step: the next host action leaves the port and takes effect. With nothing presented the block does nothing and
does not halt (R201; log entry 2). -/
def step (s : State) : Host.Outcome State Fault Refusal :=
  match s.port with
  | [] => .next s
  | a :: rest => runAction a (s.setPort rest)

/-- The host presents actions after those still to come. -/
def State.present (acts : List HostAction) (s : State) : State := s.setPort (s.port ++ acts)

/-- `s` with the table's bits `w` stored where the next step takes its instruction: a command is presented next on the
port; a frame is placed in the receive buffers at the nominal split and PARSE is presented next (log entry 17). -/
def State.withFetchWord (s : State) (nbits w : Nat) : State :=
  match tableWord nbits w with
  | .command c => s.setPort (.command c :: s.port)
  | .frame b =>
    ((s.setRxh (b.take 16)).setRxt (b.drop 16)).setPort (.command { code := 0x2, ops := {} } :: s.port)

end Sys2Proof.Machine
end

