-- ==== Sys2Proof/Safety.lean ====
section
/-! DEFINITION. What holds of every state a run can reach: the invariants of `MSG` (10_state.md R19, R20, R24), the
capacities of the buffers (R11, R12, R14), and what R181 says of `TX`. -/

namespace Sys2Proof.Machine

/-! ### A received frame in numbers (30_encoding.md R45, R61, R62, R66) -/

/-- `F[1][7:4]`. -/
abbrev wireOpcode (b : Bytes) : Nat := (b.getD 1 0).toNat / 16

/-- `F[1][3:0]`. -/
abbrev wireNibble (b : Bytes) : Nat := (b.getD 1 0).toNat % 16

/-- `be16(F[2..3])`. -/
abbrev wireSeq (b : Bytes) : Nat := (b.getD 2 0).toNat * 256 + (b.getD 3 0).toNat

/-- `le32(F[19..22])`. -/
abbrev wireLength (b : Bytes) : Nat :=
  (b.getD 19 0).toNat + (b.getD 20 0).toNat * 2 ^ 8 + (b.getD 21 0).toNat * 2 ^ 16 + (b.getD 22 0).toNat * 2 ^ 24

/-- The opcode is one of the five known values (R73). -/
abbrev KnownOpcode (p : Params) (op : Nat) : Prop :=
  op ∈ [p.opcSyn.toNat, p.opcAck.toNat, p.opcKeepalive.toNat, p.opcData.toNat, p.opcFin.toNat]

/-- The frames PARSE accepts (41_parse.md R101, R104, R106, R108). -/
abbrev Acceptable (p : Params) (b : Bytes) : Prop :=
  23 ≤ b.length ∧ (wireOpcode b = p.opcData.toNat → wireNibble b ≤ 12) ∧ wireLength b = b.length - 23 ∧
  KnownOpcode p (wireOpcode b)

/-! ### Frames of an instruction: what stays the same -/

/-- Every byte of both receive buffers reads as before. -/
abbrev SameRx (s t : State) : Prop :=
  ∀ off, byteAt t.rxh off = byteAt s.rxh off ∧ byteAt t.rxt off = byteAt s.rxt off

/-- Every byte of `TX` reads as before. -/
abbrev SameTx (s t : State) : Prop := ∀ off, byteAt t.tx off = byteAt s.tx off

/-- The parameters, the actions still to come and what the host last read are as before. -/
abbrev SameHostSide (s t : State) : Prop := t.params = s.params ∧ t.port = s.port ∧ t.reply = s.reply

/-- The fields that belong to another variant are 0 (R21, R22, R23, R24). -/
abbrev Message.OthersZero (m : Message) : Prop :=
  (m.variant ≠ .syn → m.senderConnId = 0 ∧ m.version = 0 ∧ m.role = .undefined) ∧
  (m.variant ≠ .ack → m.variant ≠ .keepalive → m.windowStart = 0 ∧ m.windowSpace = 0) ∧
  (m.variant ≠ .fin → m.reason = 0)

/-- A received frame `f` of variant `v` leads from `s` to `t`: the generic fields of `MSG`, `RES`, the cursor, and
all that stays as it was (R110). -/
abbrev ReceivedAs (v : Variant) (f : Frame) (s t : State) : Prop :=
  t.msg.valid = true ∧ t.msg.variant = v ∧ t.msg.connId = f.connId ∧ t.msg.seq.toNat = f.seq.toNat ∧
  t.msg.seqExt = false ∧ t.msg.wsExt = false ∧ t.msg.data2 = f.data2 ∧ t.msg.OthersZero ∧
  t.res = { cmd := 2, status := .ok, info0 := 0, info1 := 0 } ∧ t.pos = 23 + f.data2.length ∧
  SameRx s t ∧ SameTx s t ∧ SameHostSide s t

/-- `d1len`, `data1` and the fields of its own variant that a message has from the bytes `b` of its frame
(41_parse.md R104, R110; 42_variants.md R120 to R125; 10_state.md R25). -/
abbrev Message.ReadFrom (p : Params) (b : Bytes) (m : Message) : Prop :=
  m.d1len.toNat = (if m.variant = .data then wireNibble b else 12) ∧
  m.data1.length = 12 ∧
  (∀ k, k < 12 → m.data1.getD k 0 = if m.variant = .data ∧ wireNibble b ≤ k then 0 else b.getD (4 + k) 0) ∧
  (m.variant = .syn →
    m.senderConnId = b.getD 4 0 ∧ m.version.toNat = (b.getD 5 0).toNat * 256 + (b.getD 6 0).toNat ∧
    m.role = if 1 ≤ m.version.toNat then roleDecode p (b.getD 7 0) else .undefined) ∧
  (m.variant = .ack ∨ m.variant = .keepalive →
    m.windowStart.toNat = (b.getD 4 0).toNat * 256 + (b.getD 5 0).toNat ∧
    m.windowSpace.toNat = (b.getD 6 0).toNat * 256 + (b.getD 7 0).toNat) ∧
  (m.variant = .data → m.payload = (b.drop 4).take (wireNibble b) ++ b.drop 23) ∧
  (m.variant = .fin → m.reason = b.getD 4 0)

/-- The `data2` an ENC command passes to `EncodeFrame`; none for an instruction that is no ENC command
(40_codec_encode.md R91, R92; 42_variants.md R130 to R136). -/
def encodedData2 : Instr → Option Bytes
  | .encRaw _ _ _ _ d2 => some d2
  | .encSyn _ _ _ _ _ => some []
  | .encAck _ _ _ _ => some []
  | .encKeepalive _ _ _ => some []
  | .encData _ _ chunk => some (chunk.drop 12)
  | .encFin _ _ _ => some []
  | .syn _ => none
  | .ack _ => none
  | .keepalive _ => none
  | .data _ => none
  | .fin _ => none
  | .parse => none
  | .extSeq _ => none
  | .extWs _ => none

/-! ### The invariants -/

/-- What a decoded message keeps: the clauses of R24 for `MSG.valid = 1`. -/
abbrev Message.DecodedInv (m : Message) : Prop :=
  m.data1.length = 12 ∧
  m.d1len.toNat ≤ 12 ∧
  (m.variant ≠ .data → m.d1len = 12) ∧
  (m.variant = .data → m.data1.drop m.d1len.toNat = zeros (12 - m.d1len.toNat)) ∧
  (m.seqExt = false → m.seq.toNat < 2 ^ 16) ∧
  (m.wsExt = false → m.windowStart.toNat < 2 ^ 16) ∧
  (m.wsExt = true → m.variant = .ack ∨ m.variant = .keepalive) ∧
  (m.variant = .syn → m.version = 0 → m.role = .undefined) ∧
  m.OthersZero

/-- The invariant of `MSG` (R24): a decoded message keeps its clauses, and otherwise `MSG` is the invalid message. -/
abbrev Message.Inv (m : Message) : Prop :=
  (m.valid = true → m.DecodedInv) ∧ (m.valid = false → m = .invalid)

/-- The buffers keep their capacities, `TX` is empty or holds a whole header, and `MSG.data2` fits `MAX_DATA2`
(R11, R12, R14, R20, R181). -/
abbrev State.BufferInv (s : State) : Prop :=
  s.params.Legal ∧ Memory.wf s = true ∧ (s.tx = [] ∨ 23 ≤ s.tx.length) ∧ s.msg.data2.length ≤ s.params.maxData2

/-- The invariant of a state. -/
abbrev State.Inv (s : State) : Prop := s.msg.Inv ∧ s.BufferInv

end Sys2Proof.Machine
end

