-- ==== Sys2Proof/Certificates/Slice0/Obligations.lean ====
section
/-! DEFINITION. The statements about the block, each from the numbered rules of spec/ its docstring names. -/

open Sys2Proof Sys2Proof.Machine

/-! ### Reset -/

/-- R32: the table of reset values, that a failed PARSE and a host write leave this same `MSG`, and that `d1len = 0` with
`variant = 0` is the invalid message's only: a valid SYN, which PARSE alone makes, has `d1len = 12`. -/
def Obligations.ResetLeavesEveryItemAtItsValue : Prop :=
  (State.reset.rxh = [] ∧ State.reset.rxt = [] ∧ State.reset.tx = [] ∧ State.reset.pos = 0) ∧
  (State.reset.msg.valid = false ∧ variantSelector State.reset.msg.variant = 0 ∧ State.reset.msg.connId = 0 ∧
    State.reset.msg.seq = 0 ∧ State.reset.msg.seqExt = false ∧ State.reset.msg.d1len = 0 ∧
    State.reset.msg.data1 = zeros 12 ∧ State.reset.msg.data2 = [] ∧ State.reset.msg.senderConnId = 0 ∧
    State.reset.msg.version = 0 ∧ roleSelector State.reset.msg.role = 0 ∧ State.reset.msg.windowStart = 0 ∧
    State.reset.msg.wsExt = false ∧ State.reset.msg.windowSpace = 0 ∧ State.reset.msg.reason = 0) ∧
  (State.reset.res.cmd = 0 ∧ State.reset.res.status.code = 0 ∧ State.reset.res.info0 = 0 ∧ State.reset.res.info1 = 0) ∧
  (∀ s t, exec .parse s = .next t → t.res.status ≠ .ok → t.msg = State.reset.msg) ∧
  (∀ b s t, writeRxh b s = .next t ∨ writeRxt b s = .next t → t.msg = State.reset.msg) ∧
  (∀ s t, exec .parse s = .next t → t.msg.valid = true → t.msg.variant = .syn → t.msg.d1len = 12)

/-- R190: reset sets every state item to its value of R32, from any state. That the parameters, the actions still to
come and what the host has read stay is the model's choice (log entry 9). -/
def Obligations.ResetEventSetsEveryItem : Prop :=
  ∀ s rest, s.port = .reset :: rest →
    ∃ t, step s = .next t ∧ t.rxh = [] ∧ t.rxt = [] ∧ t.tx = [] ∧ t.msg = State.reset.msg ∧
      t.res = State.reset.res ∧ t.pos = 0 ∧ t.params = s.params ∧ t.port = rest ∧ t.reply = s.reply

/-- R191: after reset and before any host write, for every choice of the parameters; an ENC command works as in any
other state with the same parameters. -/
def Obligations.CommandsStraightAfterReset : Prop :=
  ∀ p : Params, let s0 : State := { State.reset with params := p }
    exec .parse s0 = .next (s0.setRes { cmd := 2, status := .truncated, info0 := 0, info1 := 23 }) ∧
    (∀ l, exec (.extSeq l) s0 = .next (s0.setRes { cmd := 8, status := .badCommand, info0 := 2, info1 := 0 })) ∧
    (∀ l, exec (.extWs l) s0 = .next (s0.setRes { cmd := 9, status := .badCommand, info0 := 2, info1 := 0 })) ∧
    (∀ i d2 s, encodedData2 i = some d2 → s.params = p →
      ∃ t t0, exec i s = .next t ∧ exec i s0 = .next t0 ∧ t0.tx = t.tx ∧ t0.res = t.res)

/-- The invariant of a state holds after reset. -/
def Obligations.ResetMeetsTheInvariant : Prop := State.reset.Inv

/-! ### A step, and decoding -/

/-- The instruction a presented command decodes to is what the step runs, once the command has left the port. The
port's queue and the idle step are the model's choices (log entries 1 and 2). -/
def Obligations.StepRunsTheDecodedCommand : Prop :=
  (∀ s w rest i, s.port = .command w :: rest → decodeCommand w = .instr i → step s = exec i (s.setPort rest)) ∧
  (∀ s, s.port = [] → step s = .next s)

/-- R83: an undefined command code completes as `BadCommand` and changes nothing else. -/
def Obligations.UndefinedCodeIsBadCommand : Prop :=
  ∀ s w rest, s.port = .command w :: rest → (w.code = 0x0 ∨ 0xA ≤ w.code.toNat) →
    step s = .next ((s.setPort rest).setRes
      { cmd := w.code, status := .badCommand, info0 := 1, info1 := w.code.setWidth 32 })

/-- R78 and R79: each command code with the operands of its command; the other codes are no instruction. -/
def Obligations.CommandCodesSelectTheirCommands : Prop :=
  ∀ o : Operands,
    decodeCommand { code := 0x1, ops := o } = .instr (.encRaw o.var o.cid o.seq o.d1 o.d2) ∧
    decodeCommand { code := 0x2, ops := o } = .instr .parse ∧
    decodeCommand { code := 0x3, ops := o } = .instr (.encSyn o.cid o.seq o.scid o.ver o.role) ∧
    decodeCommand { code := 0x4, ops := o } = .instr (.encAck o.cid o.seq o.ws o.space) ∧
    decodeCommand { code := 0x5, ops := o } = .instr (.encKeepalive o.cid o.ws o.space) ∧
    decodeCommand { code := 0x6, ops := o } = .instr (.encData o.cid o.seq o.chunk) ∧
    decodeCommand { code := 0x7, ops := o } = .instr (.encFin o.cid o.seq o.reason) ∧
    decodeCommand { code := 0x8, ops := o } = .instr (.extSeq o.logical) ∧
    decodeCommand { code := 0x9, ops := o } = .instr (.extWs o.logical) ∧
    ∀ c : BitVec 4, (c = 0x0 ∨ 0xA ≤ c.toNat) ↔ decodeCommand { code := c, ops := o } = .reject (.undefinedCommand c)

/-- Frame words written out from R61 and R73 under the default opcodes, one for each variant, and one reserved. -/
def Obligations.WrittenOutFramesDecode : Prop :=
  decode .default (.frame ([0x03, 0x00, 0x00, 0x02, 0xC8, 0x00, 0x01, 0x02] ++ zeros 8 ++ [0x41, 0x01, 0x00, 0, 0, 0, 0])) =
    .instr (.syn { connId := 3, nibble := 0, seq := 2, data1 := [0xC8, 0, 1, 2] ++ zeros 8,
                   reserved := [0x41, 1, 0], data2 := [] }) ∧
  decode .default (.frame ([0x05, 0x10, 0x01, 0x2C, 0x03, 0xE8, 0x00, 0x40] ++ zeros 8 ++ [0x41, 0x01, 0x00, 0, 0, 0, 0])) =
    .instr (.ack { connId := 5, nibble := 0, seq := 300, data1 := [0x03, 0xE8, 0x00, 0x40] ++ zeros 8,
                   reserved := [0x41, 1, 0], data2 := [] }) ∧
  decode .default (.frame ([0x09, 0x20, 0x01, 0x02, 0x12, 0x34, 0x02, 0x00] ++ zeros 8 ++ [0x41, 0x01, 0x00, 0, 0, 0, 0])) =
    .instr (.keepalive { connId := 9, nibble := 0, seq := 258, data1 := [0x12, 0x34, 0x02, 0x00] ++ zeros 8,
                         reserved := [0x41, 1, 0], data2 := [] }) ∧
  decode .default (.frame ([0x08, 0x33, 0x02, 0x01, 0x41, 0x42, 0x43] ++ zeros 9 ++
      [0x41, 0x01, 0x00, 0x02, 0, 0, 0, 0x44, 0x45])) =
    .instr (.data { connId := 8, nibble := 3, seq := 513, data1 := [0x41, 0x42, 0x43] ++ zeros 9,
                    reserved := [0x41, 1, 0], data2 := [0x44, 0x45] }) ∧
  decode .default (.frame ([0xFF, 0x40, 0xFF, 0xFE, 0x07] ++ zeros 11 ++ [0x41, 0x01, 0x00, 0, 0, 0, 0])) =
    .instr (.fin { connId := 255, nibble := 0, seq := 65534, data1 := [0x07] ++ zeros 11,
                   reserved := [0x41, 1, 0], data2 := [] }) ∧
  decode .default (.frame ([0x05, 0x50, 0x00, 0x01] ++ zeros 12 ++ [0x41, 0x01, 0x00, 0, 0, 0, 0])) =
    .reject (.badFrame (.unsupportedOpcode 5))

/-- Decoding the word of a well-formed instruction gives it back, for every instruction, every operand value and
every legal choice of the parameters. -/
def Obligations.DecodeOfEncodeIsIdentity : Prop :=
  ∀ (p : Params) (i : Instr), p.Legal → i.wellFormed p = true → decode p (encode p i) = .instr i

/-- No byte of a decoded frame is dropped: encoding what a frame decodes to gives the frame back, and what fits
`MAX_FRAME` is well formed. -/
def Obligations.EncodeOfDecodedFrameIsTheFrame : Prop :=
  ∀ (p : Params) (b : Bytes) (i : Instr), decodeFrame p b = .instr i →
    encode p i = .frame b ∧ (b.length ≤ p.maxFrame → i.wellFormed p = true)

/-! ### PARSE -/

/-- R101: `n < 23` fails with `Truncated` whatever the bytes are, and `n = 23` or more never does. -/
def Obligations.ShortFrameIsTruncated : Prop :=
  ∀ s : State,
    (s.rx.length < 23 → exec .parse s = .next (((s.setPos 0).setRes
      { cmd := 2, status := .truncated, info0 := BitVec.ofNat 32 s.rx.length, info1 := 23 }).setMsg State.reset.msg)) ∧
    (23 ≤ s.rx.length → ∃ t, exec .parse s = .next t ∧ t.res.status ≠ .truncated)

/-- R106: the length field, a full 32-bit little-endian value, must equal the number of bytes after the header. -/
def Obligations.LengthFieldMustEqualWhatRemains : Prop :=
  ∀ s : State, 23 ≤ s.rx.length →
    (wireOpcode s.rx = s.params.opcData.toNat → wireNibble s.rx ≤ 12) →
    (wireLength s.rx ≠ s.rx.length - 23 → exec .parse s = .next (((s.setPos 23).setRes
      { cmd := 2, status := .lengthMismatch, info0 := BitVec.ofNat 32 (wireLength s.rx),
        info1 := BitVec.ofNat 32 (s.rx.length - 23) }).setMsg State.reset.msg)) ∧
    (wireLength s.rx = s.rx.length - 23 → ∃ t, exec .parse s = .next t ∧ t.res.status ≠ .lengthMismatch)

/-- R109, R112 and R170: PARSE reports the first check that fails, in the order of the steps, with the diagnostic words
of R28; a reserved opcode or a wrong nibble never hides an earlier failure. -/
def Obligations.ParseReportsTheFirstFailingStep : Prop :=
  ∀ s : State, ∃ t, exec .parse s = .next t ∧ t.res =
    if s.rx.length < 23 then
      { cmd := 2, status := .truncated, info0 := BitVec.ofNat 32 s.rx.length, info1 := 23 }
    else if wireOpcode s.rx = s.params.opcData.toNat ∧ 12 < wireNibble s.rx then
      { cmd := 2, status := .invalidLength, info0 := BitVec.ofNat 32 (wireNibble s.rx), info1 := 12 }
    else if wireLength s.rx ≠ s.rx.length - 23 then
      { cmd := 2, status := .lengthMismatch, info0 := BitVec.ofNat 32 (wireLength s.rx),
        info1 := BitVec.ofNat 32 (s.rx.length - 23) }
    else if ¬ KnownOpcode s.params (wireOpcode s.rx) then
      { cmd := 2, status := .unsupportedOpcode, info0 := BitVec.ofNat 32 (wireOpcode s.rx), info1 := 0 }
    else { cmd := 2, status := .ok, info0 := 0, info1 := 0 }

/-- R110: the state after a successful PARSE, every field of `MSG` read from the bytes of `F`, and that every
acceptable frame gives one. Where the opcodes are distinct, as R6 demands, the variant is the opcode's. -/
def Obligations.AcceptableFrameBecomesTheMessage : Prop :=
  ∀ s : State, Acceptable s.params s.rx →
    ∃ t, exec .parse s = .next t ∧ t.msg.valid = true ∧
      s.rx.getD 0 0 = t.msg.connId ∧ (s.params.opcode t.msg.variant).toNat = wireOpcode s.rx ∧
      t.msg.seq.toNat = wireSeq s.rx ∧ t.msg.seq.toNat < 2 ^ 16 ∧ t.msg.seqExt = false ∧ t.msg.wsExt = false ∧
      t.msg.data2 = s.rx.drop 23 ∧ t.msg.totalLength = s.rx.length ∧ t.msg.OthersZero ∧
      t.msg.ReadFrom s.params s.rx ∧
      t.res = { cmd := 2, status := .ok, info0 := 0, info1 := 0 } ∧ t.pos = s.rx.length ∧
      SameRx s t ∧ SameTx s t ∧ SameHostSide s t

/-- R111: for every content of the receive buffers PARSE completes with one of the five outcomes, reads no further than
the frame's end, and never writes `RXH` or `RXT` (nor `TX`). -/
def Obligations.ParseIsTotal : Prop :=
  ∀ s : State, ∃ t, exec .parse s = .next t ∧
    t.res.status ∈ [Status.ok, .truncated, .invalidLength, .lengthMismatch, .unsupportedOpcode] ∧
    t.pos ≤ s.rx.length ∧ SameRx s t ∧ SameTx s t ∧ SameHostSide s t

/-- PARSE of a frame that decodes is the meaning of the frame instruction it decodes to. That a frame has a meaning by
itself, which step 8 of PARSE (R108) then runs, is the model's choice (log entries 7 and 10). -/
def Obligations.ParseRunsTheDecodedFrame : Prop :=
  ∀ (s : State) (i : Instr), decodeFrame s.params s.rx = .instr i → exec .parse s = exec i s

/-- R166: what a parse failure writes, with the cursor at the offset it had reached; a constructor's own failure
(which no PARSE reaches) is taken with the cursor at `n`. -/
def Obligations.ParseFailureClearsTheMessage : Prop :=
  (∀ (s : State) (e : ParseFailure), decodeFrame s.params s.rx = .reject (.badFrame e) →
    exec .parse s = .next (((s.setPos (match e with
        | .truncated _ => 0
        | .invalidLength _ _ => 16
        | .lengthMismatch _ _ => 23
        | .unsupportedOpcode _ => s.rx.length)).setRes
      (match e with
        | .truncated n => { cmd := 2, status := .truncated, info0 := BitVec.ofNat 32 n, info1 := 23 }
        | .invalidLength got bound =>
          { cmd := 2, status := .invalidLength, info0 := BitVec.ofNat 32 got, info1 := BitVec.ofNat 32 bound }
        | .lengthMismatch declared actual =>
          { cmd := 2, status := .lengthMismatch, info0 := BitVec.ofNat 32 declared, info1 := BitVec.ofNat 32 actual }
        | .unsupportedOpcode op =>
          { cmd := 2, status := .unsupportedOpcode, info0 := op.setWidth 32, info1 := 0 })).setMsg State.reset.msg)) ∧
  (∀ (f : Frame) (s : State) (got bound : Nat), receive f (.inr (.invalidLength got bound)) s =
    .next (((s.setPos (23 + f.data2.length)).setRes
      { cmd := 2, status := .invalidLength, info0 := BitVec.ofNat 32 got, info1 := BitVec.ofNat 32 bound }).setMsg
        State.reset.msg))

/-- R13: PARSE reads `F = RXH ++ RXT` and nothing else; where the host split it has no effect, nor has anything else
in the block. -/
def Obligations.ParseDependsOnTheFrameAlone : Prop :=
  ∀ s s' : State, s.rxh ++ s.rxt = s'.rxh ++ s'.rxt → s.params = s'.params →
    ∃ t t', exec .parse s = .next t ∧ exec .parse s' = .next t' ∧ t.msg = t'.msg ∧ t.res = t'.res ∧ t.pos = t'.pos

/-- R105: no value of the reserved bytes is rejected: frames that differ only at offsets 16 to 18, in blocks whose
`RSV_MARKER` and `RSV_VERSION` may differ too, have the same result. -/
def Obligations.ParseIgnoresTheReservedBytes : Prop :=
  ∀ (s s' : State) (marker version : Byte), s.rx.length = s'.rx.length →
    (∀ k, k ≠ 16 → k ≠ 17 → k ≠ 18 → s.rx.getD k 0 = s'.rx.getD k 0) →
    s'.params = { s.params with rsvMarker := marker, rsvVersion := version } →
    ∃ t t', exec .parse s = .next t ∧ exec .parse s' = .next t' ∧ t.msg = t'.msg ∧ t.res = t'.res ∧ t.pos = t'.pos

/-- R126: the minimum-length failures cannot happen on the PARSE path: an `InvalidLength` is always a DATA frame's
nibble above 12. -/
def Obligations.MinimumLengthNeverFailsInParse : Prop :=
  ∀ s t : State, exec .parse s = .next t → t.res.status = .invalidLength →
    wireOpcode s.rx = s.params.opcData.toNat ∧ 12 < wireNibble s.rx ∧
    t.res.info0 = BitVec.ofNat 32 (wireNibble s.rx) ∧ t.res.info1 = 12

/-! ### The five variants -/

/-- ConstructSyn for every logical length of its 12 bytes (R120), and the SYN frame instruction. That a frame is an
instruction by itself, with `RES` and the cursor as after PARSE (R110), is the model's choice (log entries 7 and 10). -/
def Obligations.SynFrameFields : Prop :=
  (∀ (p : Params) (m : Message) (d1 : Bytes) (len : Nat),
    (len < 3 → constructSyn p m d1 len = .inr (.invalidLength len 3)) ∧
    (d1.length = 12 → 3 ≤ len → ∃ m', constructSyn p m d1 len = .inl m' ∧ m'.senderConnId = d1.getD 0 0 ∧
      m'.version.toNat = (d1.getD 1 0).toNat * 256 + (d1.getD 2 0).toNat ∧
      m'.role = (if 1 ≤ m'.version.toNat ∧ 4 ≤ len then roleDecode p (d1.getD 3 0) else .undefined) ∧
      m = { m' with senderConnId := m.senderConnId, version := m.version, role := m.role })) ∧
  (∀ (f : Frame) (s : State), f.data1.length = 12 → ∃ t, exec (.syn f) s = .next t ∧ ReceivedAs .syn f s t ∧
    t.msg.d1len = 12 ∧ t.msg.data1 = f.data1 ∧ t.msg.senderConnId = f.data1.getD 0 0 ∧
    t.msg.version.toNat = (f.data1.getD 1 0).toNat * 256 + (f.data1.getD 2 0).toNat ∧
    t.msg.role = (if 1 ≤ t.msg.version.toNat then roleDecode s.params (f.data1.getD 3 0) else .undefined))

/-- R121 and R131: the role bytes, and that encoding a role and decoding it gives it back. -/
def Obligations.RoleBytes : Prop :=
  ∀ p : Params, p.Legal →
    (roleEncode p .undefined = p.roleUndefined ∧ roleEncode p .requestor = p.roleRequestor ∧
      roleEncode p .acceptor = p.roleAcceptor) ∧
    (∀ r, roleDecode p (roleEncode p r) = r) ∧
    (∀ b, roleDecode p b = .requestor ↔ b = p.roleRequestor) ∧
    (∀ b, roleDecode p b = .acceptor ↔ b = p.roleAcceptor)

/-- ConstructAck and ConstructKeepAlive for every logical length of their 12 bytes (R122, R123), and the ACK and
KEEPALIVE frame instructions; nothing is sign-extended, and a KEEPALIVE's sequence number is carried. That a frame is an
instruction by itself, with `RES` and the cursor as after PARSE (R110), is the model's choice (log entries 7 and 10). -/
def Obligations.WindowFrameFields : Prop :=
  (∀ (m : Message) (d1 : Bytes) (len : Nat),
    (len < 4 → constructAck m d1 len = .inr (.invalidLength len 4) ∧
      constructKeepalive m d1 len = .inr (.invalidLength len 4)) ∧
    (d1.length = 12 → 4 ≤ len → ∃ m', constructAck m d1 len = .inl m' ∧ constructKeepalive m d1 len = .inl m' ∧
      m'.windowStart.toNat = (d1.getD 0 0).toNat * 256 + (d1.getD 1 0).toNat ∧
      m'.windowSpace.toNat = (d1.getD 2 0).toNat * 256 + (d1.getD 3 0).toNat ∧
      m = { m' with windowStart := m.windowStart, windowSpace := m.windowSpace })) ∧
  (∀ (f : Frame) (s : State), f.data1.length = 12 → ∃ t, exec (.ack f) s = .next t ∧ ReceivedAs .ack f s t ∧
    t.msg.d1len = 12 ∧ t.msg.data1 = f.data1 ∧
    t.msg.windowStart.toNat = (f.data1.getD 0 0).toNat * 256 + (f.data1.getD 1 0).toNat ∧
    t.msg.windowSpace.toNat = (f.data1.getD 2 0).toNat * 256 + (f.data1.getD 3 0).toNat) ∧
  (∀ (f : Frame) (s : State), f.data1.length = 12 → ∃ t, exec (.keepalive f) s = .next t ∧ ReceivedAs .keepalive f s t ∧
    t.msg.d1len = 12 ∧ t.msg.data1 = f.data1 ∧
    t.msg.windowStart.toNat = (f.data1.getD 0 0).toNat * 256 + (f.data1.getD 1 0).toNat ∧
    t.msg.windowSpace.toNat = (f.data1.getD 2 0).toNat * 256 + (f.data1.getD 3 0).toNat)

/-- The DATA frame instruction: the nibble is the logical length, the tail reads as zero, the payload is the first
bytes of `data1` followed by `data2` (R19, R104, R124); a nibble of 13 to 15 is `InvalidLength` with the effects of
R166. That a frame is an instruction by itself, with `RES` and the cursor as after PARSE (R110, R166), also for a
nibble that PARSE stops on before it dispatches, is the model's choice (log entries 7 and 10). -/
def Obligations.DataFrameFields : Prop :=
  ∀ (f : Frame) (s : State), f.data1.length = 12 →
    (f.nibble.toNat ≤ 12 → ∃ t, exec (.data f) s = .next t ∧ ReceivedAs .data f s t ∧
      t.msg.d1len = f.nibble ∧ t.msg.data1.length = 12 ∧
      (∀ k, t.msg.data1.getD k 0 = if k < f.nibble.toNat then f.data1.getD k 0 else 0) ∧
      t.msg.payload = f.data1.take f.nibble.toNat ++ f.data2) ∧
    (12 < f.nibble.toNat → exec (.data f) s = .next (((s.setPos 16).setRes
      { cmd := 2, status := .invalidLength, info0 := f.nibble.setWidth 32, info1 := 12 }).setMsg State.reset.msg))

/-- ConstructFin for every logical length of its 12 bytes (R125), and the FIN frame instruction. That a frame is an
instruction by itself, with `RES` and the cursor as after PARSE (R110), is the model's choice (log entries 7 and 10). -/
def Obligations.FinFrameFields : Prop :=
  (∀ (m : Message) (d1 : Bytes) (len : Nat),
    (len < 1 → constructFin m d1 len = .inr (.invalidLength len 1)) ∧
    (d1.length = 12 → 1 ≤ len → constructFin m d1 len = .inl { m with reason := d1.getD 0 0 })) ∧
  (∀ (f : Frame) (s : State), f.data1.length = 12 → ∃ t, exec (.fin f) s = .next t ∧ ReceivedAs .fin f s t ∧
    t.msg.d1len = 12 ∧ t.msg.data1 = f.data1 ∧ t.msg.reason = f.data1.getD 0 0)

/-! ### Encoding -/

/-- R90: the bytes of `EncodeFrame`, offset by offset. -/
def Obligations.EncodeFrameLayout : Prop :=
  ∀ (p : Params) (v : Variant) (cid : Byte) (seq : U64) (d1 d2 : Bytes),
    p.Legal → d1.length ≤ 12 → d2.length ≤ p.maxData2 →
    let b := encodeFrame p v cid seq d1 d2
    b.getD 0 0 = cid ∧
    wireOpcode b = (match v with
      | .syn => p.opcSyn | .ack => p.opcAck | .keepalive => p.opcKeepalive | .data => p.opcData
      | .fin => p.opcFin).toNat ∧
    wireNibble b = (if v = .data then d1.length else 0) ∧
    wireSeq b = seq.toNat % 2 ^ 16 ∧
    (∀ k, k < 12 → b.getD (4 + k) 0 = d1.getD k 0) ∧
    b.getD 16 0 = p.rsvMarker ∧ b.getD 17 0 = p.rsvVersion ∧ b.getD 18 0 = 0 ∧
    wireLength b = d2.length ∧ b.drop 23 = d2

/-- R91: ENC_RAW, its three rejects in the order of the tests, and its frame. -/
def Obligations.EncRawResult : Prop :=
  ∀ (var : BitVec 3) (cid : Byte) (seq : U64) (d1 d2 : Bytes) (s : State),
    (4 < var.toNat → exec (.encRaw var cid seq d1 d2) s = .next ((s.setRes
      { cmd := 1, status := .encodeReject, info0 := 3, info1 := var.setWidth 32 }).setTx [])) ∧
    (var.toNat ≤ 4 → 12 < d1.length → exec (.encRaw var cid seq d1 d2) s = .next ((s.setRes
      { cmd := 1, status := .encodeReject, info0 := 1, info1 := BitVec.ofNat 32 d1.length }).setTx [])) ∧
    (var.toNat ≤ 4 → d1.length ≤ 12 → s.params.maxData2 < d2.length →
      exec (.encRaw var cid seq d1 d2) s = .next ((s.setRes
        { cmd := 1, status := .encodeReject, info0 := 2, info1 := BitVec.ofNat 32 d2.length }).setTx [])) ∧
    (∀ v, variantSelector v = var → d1.length ≤ 12 → d2.length ≤ s.params.maxData2 →
      exec (.encRaw var cid seq d1 d2) s = .next ((s.setTx (encodeFrame s.params v cid seq d1 d2)).setRes
        { cmd := 1, status := .ok, info0 := 0, info1 := 0 }))

/-- R130: ENC_SYN; the role byte is 0x00 when the version is 0, and the selector 3 is rejected even then. -/
def Obligations.EncSynResult : Prop :=
  ∀ (cid : Byte) (seq : U64) (scid : Byte) (ver : U16) (role : BitVec 2) (s : State),
    (role = 3 → exec (.encSyn cid seq scid ver role) s = .next ((s.setRes
      { cmd := 3, status := .encodeReject, info0 := 4, info1 := 3 }).setTx [])) ∧
    (∀ r, roleSelector r = role → exec (.encSyn cid seq scid ver role) s = .next ((s.setTx
      (encodeFrame s.params .syn cid seq
        ([scid, BitVec.ofNat 8 (ver.toNat / 256), BitVec.ofNat 8 ver.toNat,
          if ver = 0 then 0x00 else roleEncode s.params r] ++ zeros 8) [])).setRes
        { cmd := 3, status := .ok, info0 := 0, info1 := 0 }))

/-- R132, R133 and R134: ENC_ACK and ENC_KEEPALIVE; a negative `space` is clamped to 0 before truncation, and a
KEEPALIVE's sequence number is 0. -/
def Obligations.EncWindowResults : Prop :=
  ∀ (cid : Byte) (seq ws space : U64) (s : State),
    let clamped := if space.toInt < 0 then 0 else space.toNat
    let d1 := [BitVec.ofNat 8 (ws.toNat / 256), BitVec.ofNat 8 ws.toNat, BitVec.ofNat 8 (clamped / 256),
      BitVec.ofNat 8 clamped] ++ zeros 8
    exec (.encAck cid seq ws space) s = .next ((s.setTx (encodeFrame s.params .ack cid seq d1 [])).setRes
      { cmd := 4, status := .ok, info0 := 0, info1 := 0 }) ∧
    exec (.encKeepalive cid ws space) s = .next ((s.setTx (encodeFrame s.params .keepalive cid 0 d1 [])).setRes
      { cmd := 5, status := .ok, info0 := 0, info1 := 0 })

/-- R135: ENC_DATA; `data1` is filled before `data2` is used, and an overflow beyond `MAX_DATA2` is rejected. -/
def Obligations.EncDataResult : Prop :=
  ∀ (cid : Byte) (seq : U64) (chunk : Bytes) (s : State),
    (s.params.maxData2 < chunk.length - 12 → exec (.encData cid seq chunk) s = .next ((s.setRes
      { cmd := 6, status := .encodeReject, info0 := 2, info1 := BitVec.ofNat 32 (chunk.length - 12) }).setTx [])) ∧
    (chunk.length - 12 ≤ s.params.maxData2 → exec (.encData cid seq chunk) s = .next ((s.setTx
      (encodeFrame s.params .data cid seq (chunk.take 12) (chunk.drop 12))).setRes
        { cmd := 6, status := .ok, info0 := 0, info1 := 0 }))

/-- R136: ENC_FIN. -/
def Obligations.EncFinResult : Prop :=
  ∀ (cid : Byte) (seq : U64) (reason : Byte) (s : State),
    exec (.encFin cid seq reason) s = .next ((s.setTx
      (encodeFrame s.params .fin cid seq ([reason] ++ zeros 11) [])).setRes
        { cmd := 7, status := .ok, info0 := 0, info1 := 0 })

/-- R92: after any successful ENC command `|TX| = 23 + |d2|`. -/
def Obligations.EncodedLength : Prop :=
  ∀ (i : Instr) (d2 : Bytes) (s t : State), encodedData2 i = some d2 → exec i s = .next t → t.res.status = .ok →
    t.tx.length = 23 + d2.length

/-- R93: an ENC command's result depends only on its operands and the parameters, and it changes only `TX` and `RES`. -/
def Obligations.EncCommandsArePure : Prop :=
  ∀ (i : Instr) (d2 : Bytes) (s s' : State), encodedData2 i = some d2 → s.params = s'.params →
    ∃ b r, exec i s = .next ((s.setTx b).setRes r) ∧ exec i s' = .next ((s'.setTx b).setRes r)

/-- R167: an `EncodeReject` empties `TX` and leaves `MSG`, `RXH` and `RXT`; a `BadCommand` leaves `TX` too. -/
def Obligations.RejectsLeaveTheRest : Prop :=
  ∀ (i : Instr) (s t : State), exec i s = .next t →
    (t.res.status = .encodeReject →
      t.tx = [] ∧ t.msg = s.msg ∧ t.pos = s.pos ∧ SameRx s t ∧ SameHostSide s t ∧ (encodedData2 i).isSome) ∧
    (t.res.status = .badCommand → t.msg = s.msg ∧ t.pos = s.pos ∧ SameRx s t ∧ SameTx s t ∧ SameHostSide s t)

/-- R137: after a successful variant encoder, LOOPBACK at any split and PARSE give the operands back, as the table of
R137 says, whatever the block held before. The plain LOOPBACK is the split at 16. The host actions stand in the port
(log entries 1 and 13). -/
def Obligations.RoundTripThroughTheWire : Prop :=
  ∀ (i : Instr) (s t : State) (k : Nat), s.params.Legal → exec i s = .next t → t.res.status = .ok →
    (t.tx.take k).length + s.rxt.length ≤ s.params.maxFrame →
    let after := Sys2Proof.core.run 4
      ((t.setPort [.command { code := 0x2, ops := {} }]).issue (t.loopbackAtActions k))
    match i with
    | .encSyn cid seq scid ver role => ∃ u : State, after = .next u ∧ u.res.status = .ok ∧ u.msg.valid = true ∧
        u.msg.variant = .syn ∧ u.msg.connId = cid ∧ u.msg.seq.toNat = seq.toNat % 2 ^ 16 ∧
        u.msg.senderConnId = scid ∧ u.msg.version = ver ∧
        roleSelector u.msg.role = (if ver = 0 then 0 else role) ∧ u.msg.d1len = 12 ∧ u.msg.data2 = []
    | .encAck cid seq ws space => ∃ u : State, after = .next u ∧ u.res.status = .ok ∧ u.msg.valid = true ∧
        u.msg.variant = .ack ∧ u.msg.connId = cid ∧ u.msg.seq.toNat = seq.toNat % 2 ^ 16 ∧
        u.msg.windowStart.toNat = ws.toNat % 2 ^ 16 ∧
        u.msg.windowSpace.toNat = (if space.toInt < 0 then 0 else space.toNat) % 2 ^ 16 ∧
        u.msg.d1len = 12 ∧ u.msg.data2 = []
    | .encKeepalive cid ws space => ∃ u : State, after = .next u ∧ u.res.status = .ok ∧ u.msg.valid = true ∧
        u.msg.variant = .keepalive ∧ u.msg.connId = cid ∧ u.msg.seq = 0 ∧
        u.msg.windowStart.toNat = ws.toNat % 2 ^ 16 ∧
        u.msg.windowSpace.toNat = (if space.toInt < 0 then 0 else space.toNat) % 2 ^ 16 ∧
        u.msg.d1len = 12 ∧ u.msg.data2 = []
    | .encData cid seq chunk => ∃ u : State, after = .next u ∧ u.res.status = .ok ∧ u.msg.valid = true ∧
        u.msg.variant = .data ∧ u.msg.connId = cid ∧ u.msg.seq.toNat = seq.toNat % 2 ^ 16 ∧
        u.msg.d1len.toNat = min 12 chunk.length ∧ u.msg.payload = chunk
    | .encFin cid seq reason => ∃ u : State, after = .next u ∧ u.res.status = .ok ∧ u.msg.valid = true ∧
        u.msg.variant = .fin ∧ u.msg.connId = cid ∧ u.msg.seq.toNat = seq.toNat % 2 ^ 16 ∧
        u.msg.reason = reason ∧ u.msg.d1len = 12 ∧ u.msg.data2 = []
    | _ => True

/-! ### Extending -/

/-- R150: EXT_SEQ, its two rejects in the order of the tests, and its effect on every variant. -/
def Obligations.ExtSeqResult : Prop :=
  ∀ (l : U64) (s : State),
    (s.msg.valid = false → exec (.extSeq l) s =
      .next (s.setRes { cmd := 8, status := .badCommand, info0 := 2, info1 := 0 })) ∧
    (s.msg.valid = true → s.msg.seqExt = true → exec (.extSeq l) s =
      .next (s.setRes { cmd := 8, status := .badCommand, info0 := 4, info1 := 0 })) ∧
    (s.msg.valid = true → s.msg.seqExt = false → exec (.extSeq l) s =
      .next ((s.setMsg { s.msg with seq := l, seqExt := true }).setRes
        { cmd := 8, status := .ok, info0 := 0, info1 := 0 }))

/-- R151: EXT_WS, its three rejects in the order of the tests, and its effect on ACK and KEEPALIVE. -/
def Obligations.ExtWsResult : Prop :=
  ∀ (l : U64) (s : State),
    (s.msg.valid = false → exec (.extWs l) s =
      .next (s.setRes { cmd := 9, status := .badCommand, info0 := 2, info1 := 0 })) ∧
    (s.msg.valid = true → s.msg.variant ≠ .ack → s.msg.variant ≠ .keepalive → exec (.extWs l) s =
      .next (s.setRes { cmd := 9, status := .badCommand, info0 := 3,
                        info1 := (variantSelector s.msg.variant).setWidth 32 })) ∧
    (s.msg.valid = true → s.msg.variant = .ack ∨ s.msg.variant = .keepalive →
      (s.msg.wsExt = true → exec (.extWs l) s =
        .next (s.setRes { cmd := 9, status := .badCommand, info0 := 4, info1 := 0 })) ∧
      (s.msg.wsExt = false → exec (.extWs l) s =
        .next ((s.setMsg { s.msg with windowStart := l, wsExt := true }).setRes
          { cmd := 9, status := .ok, info0 := 0, info1 := 0 })))

/-- R152: at most one successful EXT_SEQ and one successful EXT_WS per decoded message. A success sets its flag; in a
state whose flag is set a further attempt is `BadCommand(4, 0)` and changes nothing but `RES`; no action but a PARSE, a
host write or reset takes the flag, or the message, back; and those three return both flags to 0. The actions of a step
stand in the port (log entry 1). -/
def Obligations.ExtendIsOneShot : Prop :=
  ∀ s t : State,
    (∀ l, exec (.extSeq l) s = .next t → t.res.status = .ok → t.msg.valid = true ∧ t.msg.seqExt = true) ∧
    (∀ l, exec (.extWs l) s = .next t → t.res.status = .ok →
      t.msg.valid = true ∧ (t.msg.variant = .ack ∨ t.msg.variant = .keepalive) ∧ t.msg.wsExt = true) ∧
    (s.msg.valid = true → s.msg.seqExt = true → ∀ l, exec (.extSeq l) s =
      .next (s.setRes { cmd := 8, status := .badCommand, info0 := 4, info1 := 0 })) ∧
    (s.msg.valid = true → s.msg.variant = .ack ∨ s.msg.variant = .keepalive → s.msg.wsExt = true → ∀ l,
      exec (.extWs l) s = .next (s.setRes { cmd := 9, status := .badCommand, info0 := 4, info1 := 0 })) ∧
    (∀ a rest, s.port = a :: rest → step s = .next t → s.msg.valid = true →
      a ≠ .reset → (∀ b, a ≠ .wrRxh b ∧ a ≠ .wrRxt b) → (∀ w, a = .command w → w.code ≠ 0x2) →
      t.msg.valid = true ∧ t.msg.variant = s.msg.variant ∧
      (s.msg.seqExt = true → t.msg.seqExt = true ∧ t.msg.seq = s.msg.seq) ∧
      (s.msg.wsExt = true → t.msg.wsExt = true ∧ t.msg.windowStart = s.msg.windowStart)) ∧
    (∀ a rest, s.port = a :: rest → step s = .next t →
      a = .reset ∨ (∃ b, a = .wrRxh b ∨ a = .wrRxt b) ∨ (∃ w, a = .command w ∧ w.code = 0x2) →
      t.msg.seqExt = false ∧ t.msg.wsExt = false)

/-! ### The host's side -/

/-- R41: a host write replaces the whole buffer and sets `MSG` to the invalid message; a write after which the two
buffers would exceed `MAX_FRAME` is refused. -/
def Obligations.HostWritesReplaceAndInvalidate : Prop :=
  ∀ (s : State) (b : Bytes) (rest : List HostAction),
    (s.port = .wrRxh b :: rest →
      (b.length + s.rxt.length ≤ s.params.maxFrame →
        step s = .next (((s.setPort rest).setRxh b).setMsg State.reset.msg)) ∧
      (s.params.maxFrame < b.length + s.rxt.length → step s = .refused .hostWriteTooLong)) ∧
    (s.port = .wrRxt b :: rest →
      (s.rxh.length + b.length ≤ s.params.maxFrame →
        step s = .next (((s.setPort rest).setRxt b).setMsg State.reset.msg)) ∧
      (s.params.maxFrame < s.rxh.length + b.length → step s = .refused .hostWriteTooLong))

/-- R44 and R25: what the host reads return; they have no side effect on the block. -/
def Obligations.HostReadsReturnTheItems : Prop :=
  ∀ (s : State) (rest : List HostAction),
    (s.port = .rdTx :: rest → step s = .next ((s.setPort rest).setReply (.tx s.tx))) ∧
    (s.port = .rdMsg :: rest → step s = .next ((s.setPort rest).setReply
      (.msg s.msg (s.msg.data1.take s.msg.d1len.toNat ++ s.msg.data2) (23 + s.msg.data2.length)))) ∧
    (s.port = .rdRes :: rest → step s = .next ((s.setPort rest).setReply (.res s.res)))

/-- R40, R42 and R43: the bytes of `RX`, and what `MemRead` and `MemWrite` do at each offset. -/
def Obligations.BufferAccesses : Prop :=
  (∀ (s : State) (k : Nat), byteAt s.rx k =
    if k < s.rxh.length then byteAt s.rxh k else byteAt s.rxt (k - s.rxh.length)) ∧
  (∀ (b : Bytes) (off k : Nat), off + k ≤ b.length →
    ∃ r, memRead b off k = some r ∧ r.length = k ∧ ∀ j, j < k → byteAt r j = byteAt b (off + j)) ∧
  (∀ (b w : Bytes) (off : Nat), off + w.length ≤ b.length →
    (∀ j, j < w.length → byteAt (memWrite b off w) (off + j) = byteAt w j) ∧
    (∀ a, a < off ∨ off + w.length ≤ a → byteAt (memWrite b off w) a = byteAt b a))

/-! ### The whole machine -/

/-- R10 to R15, R40 and R49: each item is written only by the actions the spec names for it; no step writes the
parameters; a read leaves the block as it was. -/
def Obligations.OnlyTheirActionsWriteEachItem : Prop :=
  ∀ (s t : State) (a : HostAction) (rest : List HostAction), s.port = a :: rest → step s = .next t →
    (t.rxh ≠ s.rxh → a = .reset ∨ ∃ b, a = .wrRxh b) ∧
    (t.rxt ≠ s.rxt → a = .reset ∨ ∃ b, a = .wrRxt b) ∧
    (t.tx ≠ s.tx → a = .reset ∨ ∃ w, a = .command w ∧ w.code.toNat ∈ [1, 3, 4, 5, 6, 7]) ∧
    (t.msg ≠ s.msg → a = .reset ∨ (∃ b, a = .wrRxh b ∨ a = .wrRxt b) ∨
      ∃ w, a = .command w ∧ w.code.toNat ∈ [2, 8, 9]) ∧
    (t.res ≠ s.res → a = .reset ∨ ∃ w, a = .command w) ∧
    (t.pos ≠ s.pos → a = .reset ∨ ∃ w, a = .command w ∧ w.code.toNat = 2) ∧
    (t.reply ≠ s.reply → a = .rdTx ∨ a = .rdMsg ∨ a = .rdRes) ∧
    t.params = s.params ∧ t.port = rest

/-- R24, R11, R12, R14 and R20: the invariant of `MSG` and the capacities of the buffers are kept by every step, from
every state that meets them. -/
def Obligations.StepKeepsTheInvariant : Prop :=
  ∀ s t : State, s.Inv → step s = .next t → t.Inv

/-- R42, R109 and R201: no step faults, so no read of PARSE lies outside the frame, and the only refusal is a host
write that does not fit. -/
def Obligations.NoStepFaults : Prop :=
  ∀ s : State, (∀ r, step s ≠ .fault r) ∧
    (∀ r, step s = .refused r → r = .hostWriteTooLong ∧ ∃ b rest,
      (s.port = .wrRxh b :: rest ∧ s.params.maxFrame < b.length + s.rxt.length) ∨
      (s.port = .wrRxt b :: rest ∧ s.params.maxFrame < s.rxh.length + b.length))

/-- R181, first part: every command terminates and writes `RES`, with its own code. -/
def Obligations.EveryCommandCompletesAndWritesRes : Prop :=
  ∀ (s : State) (w : CommandWord) (rest : List HostAction), s.port = .command w :: rest →
    ∃ t, step s = .next t ∧ t.res.cmd = w.code ∧ t.port = rest

/-- R27: the codes of `RES.status`, and which commands raise each. -/
def Obligations.StatusIsRaisedOnlyByItsCommands : Prop :=
  ([Status.ok, .truncated, .invalidLength, .lengthMismatch, .unsupportedOpcode, .encodeReject, .badCommand].map
    fun x => x.code.toNat) = [0, 1, 2, 3, 4, 5, 6] ∧
  ∀ (s t : State) (w : CommandWord) (rest : List HostAction), s.port = .command w :: rest → step s = .next t →
    (t.res.status ∈ [Status.truncated, .invalidLength, .lengthMismatch, .unsupportedOpcode] → w.code.toNat = 2) ∧
    (t.res.status = .encodeReject → w.code.toNat ∈ [1, 3, 4, 5, 6, 7]) ∧
    (t.res.status = .badCommand → w.code.toNat ∈ [0, 8, 9, 10, 11, 12, 13, 14, 15]) ∧
    t.res.status.code.toNat ≠ 7

/-- R181, last part, as what one step can do: `MSG` becomes valid only by a successful PARSE and stops being so only by
a host write, reset or a failed PARSE; `TX` becomes filled only by an ENC command that succeeds and empty only by one
that fails or by reset, and after an ENC command it holds a frame exactly when that command succeeded. -/
def Obligations.ValidMessageAndFilledTxComeFromSuccess : Prop :=
  ∀ (s t : State) (a : HostAction) (rest : List HostAction), s.port = a :: rest → step s = .next t →
    (s.msg.valid = false → t.msg.valid = true →
      ∃ w, a = .command w ∧ w.code.toNat = 2 ∧ t.res.status = .ok) ∧
    (s.msg.valid = true → t.msg.valid = false →
      a = .reset ∨ (∃ b, a = .wrRxh b ∨ a = .wrRxt b) ∨
        ∃ w, a = .command w ∧ w.code.toNat = 2 ∧ t.res.status ≠ .ok) ∧
    (∀ w, a = .command w → w.code.toNat = 2 → (t.msg.valid = true ↔ t.res.status = .ok)) ∧
    (∀ w, a = .command w → w.code.toNat ∈ [1, 3, 4, 5, 6, 7] →
      (t.res.status = .ok → 23 ≤ t.tx.length) ∧ (t.res.status ≠ .ok → t.tx = [])) ∧
    (s.tx = [] → t.tx ≠ [] →
      ∃ w, a = .command w ∧ w.code.toNat ∈ [1, 3, 4, 5, 6, 7] ∧ t.res.status = .ok) ∧
    (s.tx ≠ [] → t.tx = [] →
      a = .reset ∨ ∃ w, a = .command w ∧ w.code.toNat ∈ [1, 3, 4, 5, 6, 7] ∧ t.res.status ≠ .ok)

/-- R31 and R172: no command reads `RES`, and every command overwrites it: nothing of an earlier outcome remains. -/
def Obligations.NoCommandReadsRes : Prop :=
  ∀ (i : Instr) (s : State) (r : Res), exec i (s.setRes r) = exec i s

/-- R82: what LOAD, LOOPBACK and LOOPBACK `k` do, as the host actions they abbreviate: RD_TX returns `TX`, and the two
writes put its bytes into `RXH` and `RXT`, split at 16 or at `k`. The premises say that both writes fit (R41). The port
and the reply are the model's (log entries 1, 6 and 13). -/
def Obligations.PseudoInstructionsExpand : Prop :=
  ∀ s : State,
    (∀ b : Bytes, (b.take 16).length + s.rxt.length ≤ s.params.maxFrame → b.length ≤ s.params.maxFrame →
      Sys2Proof.core.run 2 (s.issue (loadActions b)) =
        .next (((s.setRxh (b.take 16)).setRxt (b.drop 16)).setMsg State.reset.msg)) ∧
    (∀ k, k ≤ s.tx.length → k + s.rxt.length ≤ s.params.maxFrame → s.tx.length ≤ s.params.maxFrame →
      Sys2Proof.core.run 3 (s.issue (s.loopbackAtActions k)) =
        .next ((((s.setReply (.tx s.tx)).setRxh (s.tx.take k)).setRxt (s.tx.drop k)).setMsg State.reset.msg)) ∧
    ((s.tx.take 16).length + s.rxt.length ≤ s.params.maxFrame → s.tx.length ≤ s.params.maxFrame →
      Sys2Proof.core.run 3 (s.issue s.loopbackActions) =
        .next ((((s.setReply (.tx s.tx)).setRxh (s.tx.take 16)).setRxt (s.tx.drop 16)).setMsg State.reset.msg))
end

