-- ==== Sys2Proof/Laws/Decode.lean ====
section
/-! SUPPORT. The small lemmas of the byte-order helpers, of slices and of a frame's bytes. -/

namespace Sys2Proof

/-! ### Bytes and words -/

theorem toNat_append8 (a b : Byte) : (a ++ b).toNat = a.toNat * 256 + b.toNat := by
  rw [BitVec.toNat_append, ← Nat.shiftLeft_add_eq_or_of_lt b.isLt, Nat.shiftLeft_eq]

theorem be16_toNat (b : Bytes) : (be16 b).toNat = (b.getD 0 0).toNat * 256 + (b.getD 1 0).toNat :=
  toNat_append8 _ _

@[simp] theorem be16_toBe16 (v : U16) : be16 (toBe16 v) = v := by
  apply BitVec.eq_of_toNat_eq
  rw [be16_toNat]
  simp [toBe16, BitVec.extractLsb'_toNat, Nat.shiftRight_eq_div_pow]
  omega

@[simp] theorem toBe16_length (v : U16) : (toBe16 v).length = 2 := rfl

theorem le32_toNat (b : Bytes) :
    (le32 b).toNat = (b.getD 0 0).toNat + (b.getD 1 0).toNat * 2 ^ 8 + (b.getD 2 0).toNat * 2 ^ 16
      + (b.getD 3 0).toNat * 2 ^ 24 := by
  simp only [le32]
  rw [BitVec.toNat_append, ← Nat.shiftLeft_add_eq_or_of_lt (b.getD 0 0).isLt,
    BitVec.toNat_append, ← Nat.shiftLeft_add_eq_or_of_lt (b.getD 1 0).isLt,
    BitVec.toNat_append, ← Nat.shiftLeft_add_eq_or_of_lt (b.getD 2 0).isLt]
  simp only [Nat.shiftLeft_eq]
  omega

@[simp] theorem le32_toLe32 (v : U32) : le32 (toLe32 v) = v := by
  apply BitVec.eq_of_toNat_eq
  rw [le32_toNat]
  simp [toLe32, BitVec.extractLsb'_toNat, Nat.shiftRight_eq_div_pow]
  omega

@[simp] theorem toLe32_length (v : U32) : (toLe32 v).length = 4 := rfl

theorem highNibble_toNat (b : Byte) : (highNibble b).toNat = b.toNat / 16 := by
  simp [highNibble, BitVec.extractLsb'_toNat, Nat.shiftRight_eq_div_pow]
  omega

theorem lowNibble_toNat (b : Byte) : (lowNibble b).toNat = b.toNat % 16 := by
  simp [lowNibble, BitVec.extractLsb'_toNat]

theorem packNibbles_toNat (op nib : BitVec 4) : (packNibbles op nib).toNat = op.toNat * 16 + nib.toNat := by
  rw [packNibbles, BitVec.toNat_append, ← Nat.shiftLeft_add_eq_or_of_lt nib.isLt, Nat.shiftLeft_eq]

@[simp] theorem highNibble_packNibbles (op nib : BitVec 4) : highNibble (packNibbles op nib) = op := by
  apply BitVec.eq_of_toNat_eq
  rw [highNibble_toNat, packNibbles_toNat]
  omega

@[simp] theorem lowNibble_packNibbles (op nib : BitVec 4) : lowNibble (packNibbles op nib) = nib := by
  apply BitVec.eq_of_toNat_eq
  rw [lowNibble_toNat, packNibbles_toNat]
  omega

@[simp] theorem packNibbles_nibbles (b : Byte) : packNibbles (highNibble b) (lowNibble b) = b := by
  apply BitVec.eq_of_toNat_eq
  rw [packNibbles_toNat, highNibble_toNat, lowNibble_toNat]
  omega

/-- The two bytes of a 16-bit value in numbers. -/
theorem toBe16_eq (v : U16) : toBe16 v = [BitVec.ofNat 8 (v.toNat / 256), BitVec.ofNat 8 v.toNat] := by
  simp only [toBe16, List.cons.injEq, and_true]
  constructor <;> apply BitVec.eq_of_toNat_eq <;>
    simp [BitVec.extractLsb'_toNat, Nat.shiftRight_eq_div_pow]

/-! ### Slices -/

theorem slice_length (b : Bytes) (off k : Nat) : (slice b off k).length = min k (b.length - off) := by
  simp [slice]

theorem slice_length_of_le {b : Bytes} {off k : Nat} (h : off + k ≤ b.length) : (slice b off k).length = k := by
  rw [slice_length]
  omega

theorem slice_getD (b : Bytes) {off k i : Nat} (h : i < k) : (slice b off k).getD i 0 = b.getD (off + i) 0 := by
  simp [slice, List.getD_eq_getElem?_getD, h, List.getElem?_drop]

/-- A slice that starts after the first `k` bytes of a concatenation lies in what follows them. -/
theorem slice_append_right {a b : Bytes} {off k : Nat} (h : a.length ≤ off) :
    slice (a ++ b) off k = slice b (off - a.length) k := by
  have ha : List.drop off a = [] := List.drop_eq_nil_of_le h
  simp [slice, List.drop_append, ha]

/-! ### A frame's bytes -/

theorem frameBytes_length (op : BitVec 4) (f : Frame) :
    (frameBytes op f).length = 8 + f.data1.length + f.reserved.length + f.data2.length := by
  simp [frameBytes]
  omega

/-- What `Frame.wellFormed` says. -/
theorem Frame.wellFormed_iff (p : Params) (f : Frame) :
    f.wellFormed p = true ↔
      f.data1.length = 12 ∧ f.reserved.length = 3 ∧ f.data2.length ≤ p.maxData2 := by
  simp [Frame.wellFormed, and_assoc]

/-- The wire opcode of each variant selects it back when the five opcodes are distinct (R73, R109). -/
theorem Params.variantOf_opcode {p : Params} (h : p.Legal) (v : Variant) : p.variantOf (p.opcode v) = some v := by
  obtain ⟨hn, -⟩ := h
  simp only [List.nodup_cons, List.mem_cons, List.not_mem_nil, or_false, not_or, not_false_eq_true, List.nodup_nil,
    and_true] at hn
  obtain ⟨⟨h1, h2, h3, h4⟩, ⟨h5, h6, h7⟩, ⟨h8, h9⟩, h10⟩ := hn
  cases v <;> simp_all [Params.variantOf, Params.opcode, eq_comm]

/-- An opcode that selects a variant is that variant's opcode. -/
theorem Params.opcode_of_variantOf {p : Params} {op : BitVec 4} {v : Variant} (h : p.variantOf op = some v) :
    p.opcode v = op := by
  unfold Params.variantOf at h
  split at h
  · cases h; simp_all [Params.opcode]
  split at h
  · cases h; simp_all [Params.opcode]
  split at h
  · cases h; simp_all [Params.opcode]
  split at h
  · cases h; simp_all [Params.opcode]
  split at h
  · cases h; simp_all [Params.opcode]
  · cases h

/-- No variant is selected exactly by the reserved opcodes (R74). -/
theorem Params.variantOf_eq_none_iff (p : Params) (op : BitVec 4) :
    p.variantOf op = none ↔ ¬ Machine.KnownOpcode p op.toNat := by
  simp only [Params.variantOf, Machine.KnownOpcode, List.mem_cons, List.not_mem_nil, or_false,
    BitVec.toNat_inj]
  repeat' split
  all_goals simp_all

end Sys2Proof
end

