-- ==== Sys2Proof/Laws/State.lean ====
section
/-! SUPPORT. One lemma for each field under each register update, so that no proof unfolds a record update. -/

namespace Sys2Proof.Machine

variable (s : State)

section setRxh
variable (b : Bytes)
@[simp] theorem rxh_setRxh : (s.setRxh b).rxh = b := by rfl
@[simp] theorem rxt_setRxh : (s.setRxh b).rxt = s.rxt := by rfl
@[simp] theorem tx_setRxh : (s.setRxh b).tx = s.tx := by rfl
@[simp] theorem msg_setRxh : (s.setRxh b).msg = s.msg := by rfl
@[simp] theorem res_setRxh : (s.setRxh b).res = s.res := by rfl
@[simp] theorem pos_setRxh : (s.setRxh b).pos = s.pos := by rfl
@[simp] theorem params_setRxh : (s.setRxh b).params = s.params := by rfl
@[simp] theorem port_setRxh : (s.setRxh b).port = s.port := by rfl
@[simp] theorem reply_setRxh : (s.setRxh b).reply = s.reply := by rfl
end setRxh

section setRxt
variable (b : Bytes)
@[simp] theorem rxh_setRxt : (s.setRxt b).rxh = s.rxh := by rfl
@[simp] theorem rxt_setRxt : (s.setRxt b).rxt = b := by rfl
@[simp] theorem tx_setRxt : (s.setRxt b).tx = s.tx := by rfl
@[simp] theorem msg_setRxt : (s.setRxt b).msg = s.msg := by rfl
@[simp] theorem res_setRxt : (s.setRxt b).res = s.res := by rfl
@[simp] theorem pos_setRxt : (s.setRxt b).pos = s.pos := by rfl
@[simp] theorem params_setRxt : (s.setRxt b).params = s.params := by rfl
@[simp] theorem port_setRxt : (s.setRxt b).port = s.port := by rfl
@[simp] theorem reply_setRxt : (s.setRxt b).reply = s.reply := by rfl
end setRxt

section setTx
variable (b : Bytes)
@[simp] theorem rxh_setTx : (s.setTx b).rxh = s.rxh := by rfl
@[simp] theorem rxt_setTx : (s.setTx b).rxt = s.rxt := by rfl
@[simp] theorem tx_setTx : (s.setTx b).tx = b := by rfl
@[simp] theorem msg_setTx : (s.setTx b).msg = s.msg := by rfl
@[simp] theorem res_setTx : (s.setTx b).res = s.res := by rfl
@[simp] theorem pos_setTx : (s.setTx b).pos = s.pos := by rfl
@[simp] theorem params_setTx : (s.setTx b).params = s.params := by rfl
@[simp] theorem port_setTx : (s.setTx b).port = s.port := by rfl
@[simp] theorem reply_setTx : (s.setTx b).reply = s.reply := by rfl
end setTx

section setMsg
variable (m : Message)
@[simp] theorem rxh_setMsg : (s.setMsg m).rxh = s.rxh := by rfl
@[simp] theorem rxt_setMsg : (s.setMsg m).rxt = s.rxt := by rfl
@[simp] theorem tx_setMsg : (s.setMsg m).tx = s.tx := by rfl
@[simp] theorem msg_setMsg : (s.setMsg m).msg = m := by rfl
@[simp] theorem res_setMsg : (s.setMsg m).res = s.res := by rfl
@[simp] theorem pos_setMsg : (s.setMsg m).pos = s.pos := by rfl
@[simp] theorem params_setMsg : (s.setMsg m).params = s.params := by rfl
@[simp] theorem port_setMsg : (s.setMsg m).port = s.port := by rfl
@[simp] theorem reply_setMsg : (s.setMsg m).reply = s.reply := by rfl
end setMsg

section setRes
variable (r : Res)
@[simp] theorem rxh_setRes : (s.setRes r).rxh = s.rxh := by rfl
@[simp] theorem rxt_setRes : (s.setRes r).rxt = s.rxt := by rfl
@[simp] theorem tx_setRes : (s.setRes r).tx = s.tx := by rfl
@[simp] theorem msg_setRes : (s.setRes r).msg = s.msg := by rfl
@[simp] theorem res_setRes : (s.setRes r).res = r := by rfl
@[simp] theorem pos_setRes : (s.setRes r).pos = s.pos := by rfl
@[simp] theorem params_setRes : (s.setRes r).params = s.params := by rfl
@[simp] theorem port_setRes : (s.setRes r).port = s.port := by rfl
@[simp] theorem reply_setRes : (s.setRes r).reply = s.reply := by rfl
end setRes

section setPos
variable (k : Nat)
@[simp] theorem rxh_setPos : (s.setPos k).rxh = s.rxh := by rfl
@[simp] theorem rxt_setPos : (s.setPos k).rxt = s.rxt := by rfl
@[simp] theorem tx_setPos : (s.setPos k).tx = s.tx := by rfl
@[simp] theorem msg_setPos : (s.setPos k).msg = s.msg := by rfl
@[simp] theorem res_setPos : (s.setPos k).res = s.res := by rfl
@[simp] theorem pos_setPos : (s.setPos k).pos = k := by rfl
@[simp] theorem params_setPos : (s.setPos k).params = s.params := by rfl
@[simp] theorem port_setPos : (s.setPos k).port = s.port := by rfl
@[simp] theorem reply_setPos : (s.setPos k).reply = s.reply := by rfl
end setPos

section setPort
variable (acts : List HostAction)
@[simp] theorem rxh_setPort : (s.setPort acts).rxh = s.rxh := by rfl
@[simp] theorem rxt_setPort : (s.setPort acts).rxt = s.rxt := by rfl
@[simp] theorem tx_setPort : (s.setPort acts).tx = s.tx := by rfl
@[simp] theorem msg_setPort : (s.setPort acts).msg = s.msg := by rfl
@[simp] theorem res_setPort : (s.setPort acts).res = s.res := by rfl
@[simp] theorem pos_setPort : (s.setPort acts).pos = s.pos := by rfl
@[simp] theorem params_setPort : (s.setPort acts).params = s.params := by rfl
@[simp] theorem port_setPort : (s.setPort acts).port = acts := by rfl
@[simp] theorem reply_setPort : (s.setPort acts).reply = s.reply := by rfl
end setPort

section setReply
variable (r : Reply)
@[simp] theorem rxh_setReply : (s.setReply r).rxh = s.rxh := by rfl
@[simp] theorem rxt_setReply : (s.setReply r).rxt = s.rxt := by rfl
@[simp] theorem tx_setReply : (s.setReply r).tx = s.tx := by rfl
@[simp] theorem msg_setReply : (s.setReply r).msg = s.msg := by rfl
@[simp] theorem res_setReply : (s.setReply r).res = s.res := by rfl
@[simp] theorem pos_setReply : (s.setReply r).pos = s.pos := by rfl
@[simp] theorem params_setReply : (s.setReply r).params = s.params := by rfl
@[simp] theorem port_setReply : (s.setReply r).port = s.port := by rfl
@[simp] theorem reply_setReply : (s.setReply r).reply = some r := by rfl
end setReply

/-! Two updates of one register keep the last, and the frame under decode sees only its two buffers. -/

@[simp] theorem setPos_setPos (j k : Nat) : (s.setPos j).setPos k = s.setPos k := by rfl
@[simp] theorem setPos_self : s.setPos s.pos = s := by rfl
@[simp] theorem setPort_setPort (a b : List HostAction) : (s.setPort a).setPort b = s.setPort b := by rfl
@[simp] theorem rx_setPos (k : Nat) : (s.setPos k).rx = s.rx := by rfl
@[simp] theorem rx_setTx (b : Bytes) : (s.setTx b).rx = s.rx := by rfl
@[simp] theorem rx_setMsg (m : Message) : (s.setMsg m).rx = s.rx := by rfl
@[simp] theorem rx_setRes (r : Res) : (s.setRes r).rx = s.rx := by rfl
@[simp] theorem rx_setPort (a : List HostAction) : (s.setPort a).rx = s.rx := by rfl

end Sys2Proof.Machine
end

