-- ==== Sys2Proof/Laws/Ops.lean ====
section
/-! SUPPORT. One lemma for each shared operation, saying everything it can do, and that the memory operations keep the
capacities of the buffers. -/

namespace Sys2Proof.Machine

/-! ### Memory -/

/-- `MemRead` inside the buffer is the slice, and outside it is nothing (R42). -/
theorem memRead_of_le {b : Bytes} {off k : Nat} (h : off + k ≤ b.length) : memRead b off k = some (slice b off k) := by
  simp [memRead, h]

theorem memRead_of_lt {b : Bytes} {off k : Nat} (h : b.length < off + k) : memRead b off k = none := by
  simp [memRead, Nat.not_le.mpr h]

/-- A read inside the frame goes on with the slice at the cursor, the cursor moved past it. -/
theorem readNext_of_le {k : Nat} {s : State} {next : Bytes → State → Out} (h : s.pos + k ≤ s.rx.length) :
    readNext k s next = next (slice s.rx s.pos k) (s.setPos (s.pos + k)) := by
  simp [readNext, memRead_of_le h]

/-- What a write of the whole buffer leaves (R43). -/
@[simp] theorem memWrite_nil (w : Bytes) : memWrite [] 0 w = w := by simp [memWrite]

/-- A write inside the buffer keeps its length. -/
theorem memWrite_length {b w : Bytes} {off : Nat} (h : off + w.length ≤ b.length) :
    (memWrite b off w).length = b.length := by
  simp [memWrite]
  omega

@[simp] theorem emitFrame_eq (b : Bytes) (s : State) : emitFrame b s = s.setTx b := by simp [emitFrame]

/-! ### The end of a command -/

theorem done_eq (cmd : BitVec 4) (s : State) : done cmd s = .next (s.setRes (Res.success cmd)) := rfl

theorem raise_eq (cmd : BitVec 4) (e : Failure) (s : State) : raise cmd e s = .next (s.afterFailure cmd e) := rfl

@[simp] theorem afterFailure_parse (cmd : BitVec 4) (e : ParseFailure) (s : State) :
    s.afterFailure cmd (.parse e) = (s.setRes (Res.failure cmd (.parse e))).setMsg .invalid := rfl

@[simp] theorem afterFailure_encodeReject (cmd : BitVec 4) (e : EncodeReject) (s : State) :
    s.afterFailure cmd (.encodeReject e) = (s.setRes (Res.failure cmd (.encodeReject e))).setTx [] := rfl

@[simp] theorem afterFailure_badCommand (cmd : BitVec 4) (e : BadCommand) (s : State) :
    s.afterFailure cmd (.badCommand e) = s.setRes (Res.failure cmd (.badCommand e)) := rfl

/-- Every command end records the command and an outcome (R165, R166, R167). -/
@[simp] theorem afterFailure_res (cmd : BitVec 4) (e : Failure) (s : State) :
    (s.afterFailure cmd e).res = Res.failure cmd e := by
  cases e <;> rfl

@[simp] theorem success_status (cmd : BitVec 4) : (Res.success cmd).status = .ok := rfl
@[simp] theorem success_cmd (cmd : BitVec 4) : (Res.success cmd).cmd = cmd := rfl
@[simp] theorem failure_cmd (cmd : BitVec 4) (e : Failure) : (Res.failure cmd e).cmd = cmd := rfl
@[simp] theorem failure_status (cmd : BitVec 4) (e : Failure) : (Res.failure cmd e).status = e.status := rfl

/-- A failure is never recorded as a success. -/
theorem Failure.status_ne_ok (e : Failure) : e.status ≠ .ok := by
  rcases e with (_ | _ | _ | _) | _ | _ <;> simp [Failure.status]

/-! ### The ENC and EXT commands and the received frames -/

/-- Everything `emit` does. -/
theorem emit_eq (cmd : BitVec 4) (v : Variant) (cid : Byte) (seq : U64) (d1 d2 : Bytes) (s : State) :
    emit cmd v cid seq d1 d2 s =
      .next ((s.setTx (encodeFrame s.params v cid seq d1 d2)).setRes (Res.success cmd)) := by
  simp [emit, done_eq]

/-- The length of an encoded frame whose `data1` fits its slot (R60, R92). -/
theorem encodeFrame_length (p : Params) (v : Variant) (cid : Byte) (seq : U64) {d1 : Bytes} (d2 : Bytes)
    (h : d1.length ≤ 12) : (encodeFrame p v cid seq d1 d2).length = 23 + d2.length := by
  simp [encodeFrame, frameBytes_length, pad12, reservedBytes]
  omega

/-- A received frame whose constructor succeeds becomes the message (R110). -/
theorem receive_inl (f : Frame) (m : Message) (s : State) :
    receive f (.inl m) s = .next (((s.setPos (23 + f.data2.length)).setMsg m).setRes (Res.success 0x2)) := rfl

/-- A received frame whose constructor fails leaves the invalid message (R166). -/
theorem receive_inr (f : Frame) (e : ParseFailure) (s : State) :
    receive f (.inr e) s =
      .next (((s.setPos (23 + f.data2.length)).setRes (Res.failure 0x2 (.parse e))).setMsg .invalid) := rfl

/-! ### The pseudo-instructions -/

/-- Issuing actions puts them before those still to come and changes nothing else. -/
theorem issue_eq (acts : List HostAction) (s : State) : s.issue acts = s.setPort (acts ++ s.port) := rfl

@[simp] theorem port_issue (acts : List HostAction) (s : State) : (s.issue acts).port = acts ++ s.port := rfl

/-- `LOOPBACK` is `LOOPBACK 16` (R82). -/
theorem loopbackActions_eq (s : State) : s.loopbackActions = s.loopbackAtActions 16 := rfl

/-! ### The memory operations keep the capacities -/

/-- What `Memory.wf` says. -/
theorem Memory.wf_iff (s : State) :
    Memory.wf s = true ↔
      s.rxh.length + s.rxt.length ≤ s.params.maxFrame ∧ s.tx.length ≤ s.params.maxFrame := by
  simp [Memory.wf]

theorem Memory.reset_wf : Memory.wf State.reset = true := by decide

/-- A host write that is not refused keeps the capacities and leaves the invalid message (R41). -/
theorem writeRxh_next {b : Bytes} {s t : State} (h : writeRxh b s = .next t) :
    b.length + s.rxt.length ≤ s.params.maxFrame ∧ t = (s.setRxh b).setMsg .invalid := by
  unfold writeRxh at h
  split at h
  · exact ⟨‹_›, by cases h; rfl⟩
  · cases h

theorem writeRxt_next {b : Bytes} {s t : State} (h : writeRxt b s = .next t) :
    s.rxh.length + b.length ≤ s.params.maxFrame ∧ t = (s.setRxt b).setMsg .invalid := by
  unfold writeRxt at h
  split at h
  · exact ⟨‹_›, by cases h; rfl⟩
  · cases h

theorem Memory.writeRxh_wf {b : Bytes} {s t : State} (hw : Memory.wf s = true) (h : writeRxh b s = .next t) :
    Memory.wf t = true := by
  obtain ⟨hb, rfl⟩ := writeRxh_next h
  rw [Memory.wf_iff] at hw ⊢
  exact ⟨hb, hw.2⟩

theorem Memory.writeRxt_wf {b : Bytes} {s t : State} (hw : Memory.wf s = true) (h : writeRxt b s = .next t) :
    Memory.wf t = true := by
  obtain ⟨hb, rfl⟩ := writeRxt_next h
  rw [Memory.wf_iff] at hw ⊢
  exact ⟨hb, hw.2⟩

/-- Replacing `TX` by a frame that fits keeps the capacities; so does emptying it. -/
theorem Memory.emitFrame_wf {b : Bytes} {s : State} (hw : Memory.wf s = true) (hb : b.length ≤ s.params.maxFrame) :
    Memory.wf (emitFrame b s) = true := by
  rw [Memory.wf_iff] at hw ⊢
  exact ⟨by simpa using hw.1, by simpa using hb⟩

/-- A failure changes no receive buffer and at most empties `TX`. -/
theorem Memory.afterFailure_wf {cmd : BitVec 4} {e : Failure} {s : State} (hw : Memory.wf s = true) :
    Memory.wf (s.afterFailure cmd e) = true := by
  rw [Memory.wf_iff] at hw ⊢
  cases e <;> simp_all

end Sys2Proof.Machine
end

