-- ==== Sys2Proof/Laws/Parse.lean ====
section
/-! SUPPORT. PARSE without its cursor: one lemma that says everything `execParse` can do, which later proofs cite instead
of unfolding its reads (41_parse.md R109, R170). -/

namespace Sys2Proof.Machine

theorem byte_of_slice (b : Bytes) (off : Nat) : (slice b off 1).getD 0 0 = b.getD off 0 := slice_getD b (by decide)

@[simp] theorem frameFields_nibble (b : Bytes) : (frameFields b).nibble = lowNibble (b.getD 1 0) := by rfl

@[simp] theorem frameFields_data2_length (b : Bytes) : (frameFields b).data2.length = b.length - 23 := by
  simp [frameFields]

/-- Step 8 runs the frame instruction of the variant (R108). -/
theorem dispatchFrame_eq (f : Frame) (s : State) (v : Variant) : dispatchFrame f s v = exec (.ofFrame f v) s := by
  cases v <;> rfl

/-- The four failures in the order of the steps, then the dispatch; each with the cursor where PARSE left it. -/
theorem execParse_eq (s : State) : execParse s =
    if s.rx.length < 23 then raise 0x2 (.parse (.truncated s.rx.length)) (s.setPos 0)
    else if highNibble (s.rx.getD 1 0) = s.params.opcData ∧ 12 < (lowNibble (s.rx.getD 1 0)).toNat then
      raise 0x2 (.parse (.invalidLength (lowNibble (s.rx.getD 1 0)).toNat 12)) (s.setPos 16)
    else if (le32 (slice s.rx 19 4)).toNat = s.rx.length - 23 then
      match s.params.variantOf (highNibble (s.rx.getD 1 0)) with
      | none => raise 0x2 (.parse (.unsupportedOpcode (highNibble (s.rx.getD 1 0)))) (s.setPos s.rx.length)
      | some v => dispatchFrame (frameFields s.rx) (s.setPos s.rx.length) v
    else raise 0x2 (.parse (.lengthMismatch (le32 (slice s.rx 19 4)).toNat (s.rx.length - 23))) (s.setPos 23) := by
  unfold execParse
  by_cases hn : s.rx.length < 23
  · simp [hn]
  · have hn' : 23 ≤ s.rx.length := Nat.not_lt.mp hn
    simp only [hn, if_false]
    rw [readNext_of_le (by simp; omega), readNext_of_le (by simp; omega), readNext_of_le (by simp; omega),
      readNext_of_le (by simp; omega)]
    simp only [pos_setPos, rx_setPos, setPos_setPos, params_setPos, byte_of_slice, Nat.zero_add, Nat.reduceAdd]
    by_cases hd : highNibble (s.rx.getD 1 0) = s.params.opcData ∧ 12 < (lowNibble (s.rx.getD 1 0)).toNat
    · rw [if_pos hd, if_pos hd]
    · rw [if_neg hd, if_neg hd, readNext_of_le (by simp; omega), readNext_of_le (by simp; omega)]
      simp only [pos_setPos, rx_setPos, setPos_setPos, Nat.reduceAdd]
      by_cases hl : (le32 (slice s.rx 19 4)).toNat = s.rx.length - 23
      · rw [if_pos hl, if_pos hl, readNext_of_le (by simp; omega)]
        simp only [pos_setPos, rx_setPos, setPos_setPos, params_setPos]
        have hend : 23 + (s.rx.length - 23) = s.rx.length := by omega
        have hf : Frame.mk (s.rx.getD 0 0) (lowNibble (s.rx.getD 1 0)) (be16 (slice s.rx 2 2))
            (slice s.rx 4 12) (slice s.rx 16 3) (slice s.rx 23 (s.rx.length - 23)) = frameFields s.rx := by
          simp [frameFields, slice]
        rw [hend, hf] <;> rfl
      · rw [if_neg hl, if_neg hl]

/-! ### The header in numbers -/

theorem wireOpcode_eq (b : Bytes) : wireOpcode b = (highNibble (b.getD 1 0)).toNat := (highNibble_toNat _).symm

theorem wireNibble_eq (b : Bytes) : wireNibble b = (lowNibble (b.getD 1 0)).toNat := (lowNibble_toNat _).symm

theorem wireLength_eq (b : Bytes) : wireLength b = (le32 (slice b 19 4)).toNat := by
  rw [le32_toNat]
  simp only [slice_getD b (show (0 : Nat) < 4 by decide), slice_getD b (show (1 : Nat) < 4 by decide),
    slice_getD b (show (2 : Nat) < 4 by decide), slice_getD b (show (3 : Nat) < 4 by decide)]

theorem wireSeq_eq (b : Bytes) : wireSeq b = (frameFields b).seq.toNat := by
  simp only [frameFields, be16_toNat, slice_getD b (show (0 : Nat) < 2 by decide),
    slice_getD b (show (1 : Nat) < 2 by decide)]

end Sys2Proof.Machine
end

