-- ==== Sys2Proof/Laws/Exec.lean ====
section
/-! SUPPORT. What one command can do, said once: a lemma for each group of instructions, and the inversion of a whole
command, which later proofs cite instead of unfolding `exec` (60_exceptions.md R165 to R167). -/

namespace Sys2Proof.Machine

/-! ### The frame instructions -/

/-- A frame whose constructor succeeds leaves a decoded message (41_parse.md R110). -/
theorem exec_ofFrame (f : Frame) (v : Variant) (s : State) (h : v = .data → f.nibble.toNat ≤ 12) :
    ∃ m, exec (.ofFrame f v) s = .next (((s.setPos (23 + f.data2.length)).setMsg m).setRes (Res.success 0x2)) ∧
      m.valid = true ∧ m.variant = v ∧ m.connId = f.connId ∧ m.seq = zext64 f.seq ∧ m.seqExt = false ∧
      m.wsExt = false ∧
      m.data2 = f.data2 ∧ m.OthersZero ∧ (f.data1.length = 12 → m.DecodedInv) := by
  cases v with
  | data =>
    refine ⟨receivedMessage .data f (dataSlot f.data1 f.nibble.toNat) f.nibble.toNat, ?_, ?_⟩
    · simp only [Instr.ofFrame, exec, execData]
      rw [if_neg (by simpa using h rfl)]
      rfl
    · have := h rfl
      simp [receivedMessage, Message.invalid, Message.OthersZero, Message.DecodedInv, dataSlot, zext64]
      intro hl
      refine ⟨by omega, by omega, ?_, by have := f.seq.isLt; omega⟩
      rw [List.drop_append]
      simp [hl]
      omega
  | syn =>
    refine ⟨_, rfl, ?_⟩
    simp [receivedMessage, Message.invalid, Message.OthersZero, Message.DecodedInv, zext64]
    have := f.seq.isLt
    intro hl
    refine ⟨hl, by omega, ?_⟩
    intro h0
    simp [h0]
  | ack =>
    refine ⟨_, rfl, ?_⟩
    simp [receivedMessage, Message.invalid, Message.OthersZero, Message.DecodedInv, zext64]
    have := f.seq.isLt
    have := (be16 (slice f.data1 0 2)).isLt
    intro hl
    refine ⟨hl, by omega, by omega⟩
  | keepalive =>
    refine ⟨_, rfl, ?_⟩
    simp [receivedMessage, Message.invalid, Message.OthersZero, Message.DecodedInv, zext64]
    have := f.seq.isLt
    have := (be16 (slice f.data1 0 2)).isLt
    intro hl
    refine ⟨hl, by omega, by omega⟩
  | fin =>
    refine ⟨_, rfl, ?_⟩
    simp [receivedMessage, Message.invalid, Message.OthersZero, Message.DecodedInv, zext64]
    have := f.seq.isLt
    intro hl
    refine ⟨hl, by omega⟩

/-! ### The ENC commands -/

theorem pad12_length {d1 : Bytes} (h : d1.length ≤ 12) : (pad12 d1).length = 12 := by simp [pad12]; omega

/-- An ENC command either emits the frame of its `data1` and `data2` or rejects (40_codec_encode.md R91, R93). -/
theorem exec_enc {i : Instr} {d2 : Bytes} (h : encodedData2 i = some d2) :
    ∃ c : BitVec 4, (∀ p, ∃ w, encode p i = .command w ∧ w.code = c) ∧ c.toNat ∈ [1, 3, 4, 5, 6, 7] ∧
      ∀ s : State,
      (∃ v cid seq d1, d1.length ≤ 12 ∧ d2.length ≤ s.params.maxData2 ∧
        exec i s = .next ((s.setTx (encodeFrame s.params v cid seq d1 d2)).setRes (Res.success c))) ∨
      (∃ e, exec i s = .next ((s.setRes (Res.failure c (.encodeReject e))).setTx [])) := by
  cases i <;> simp only [encodedData2, Option.some.injEq, reduceCtorEq] at h <;> subst h
  case encRaw var cid seq d1 d2 =>
    refine ⟨1, fun p => ⟨_, rfl, rfl⟩, by decide, fun s => ?_⟩
    simp only [exec, execEncRaw, emit_eq, raise_eq, afterFailure_encodeReject]
    split
    · exact .inr ⟨_, rfl⟩
    · split
      · exact .inr ⟨_, rfl⟩
      · split
        · exact .inr ⟨_, rfl⟩
        · exact .inl ⟨_, _, _, _, by omega, by omega, rfl⟩
  case encSyn cid seq scid ver role =>
    refine ⟨3, fun p => ⟨_, rfl, rfl⟩, by decide, fun s => ?_⟩
    simp only [exec, execEncSyn, emit_eq, raise_eq, afterFailure_encodeReject]
    split
    · exact .inr ⟨_, rfl⟩
    · exact .inl ⟨_, _, _, _, by simp [synBytes], by simp, rfl⟩
  case encAck cid seq ws space =>
    refine ⟨4, fun p => ⟨_, rfl, rfl⟩, by decide, fun s => .inl ⟨.ack, cid, seq, windowBytes ws space, ?_, ?_, ?_⟩⟩
    · simp [windowBytes]
    · simp
    · simp only [exec, execEncAck, emit_eq]
  case encKeepalive cid ws space =>
    refine ⟨5, fun p => ⟨_, rfl, rfl⟩, by decide, fun s => .inl ⟨.keepalive, cid, 0, windowBytes ws space, ?_, ?_, ?_⟩⟩
    · simp [windowBytes]
    · simp
    · simp only [exec, execEncKeepalive, emit_eq]
  case encData cid seq chunk =>
    refine ⟨6, fun p => ⟨_, rfl, rfl⟩, by decide, fun s => ?_⟩
    simp only [exec, execEncData, emit_eq, raise_eq, afterFailure_encodeReject]
    split
    · exact .inr ⟨_, rfl⟩
    · refine .inl ⟨.data, cid, seq, chunk.take (min 12 chunk.length), by simp, by simp; omega, ?_⟩
      have : List.drop (min 12 chunk.length) chunk = List.drop 12 chunk := by
        by_cases hc : chunk.length ≤ 12
        · rw [Nat.min_eq_right hc]; simp [hc]
        · rw [Nat.min_eq_left (by omega)]
      rw [this]
  case encFin cid seq reason =>
    refine ⟨7, fun p => ⟨_, rfl, rfl⟩, by decide, fun s => .inl ⟨.fin, cid, seq, finBytes reason, ?_, ?_, ?_⟩⟩
    · simp [finBytes]
    · simp
    · simp only [exec, execEncFin, emit_eq]

/-- The fields an encoded frame decodes to, and its length field (40_codec_encode.md R90). -/
theorem encodeFrame_fields (p : Params) (v : Variant) (cid : Byte) (seq : U64) {d1 : Bytes} (d2 : Bytes)
    (h1 : d1.length ≤ 12) :
   (encodeFrame p v cid seq d1 d2).getD 1 0 = packNibbles (p.opcode v) (encodedNibble v d1) ∧
   frameFields (encodeFrame p v cid seq d1 d2) =
      ⟨cid, encodedNibble v d1, trunc16 seq, pad12 d1, reservedBytes p, d2⟩ ∧
   le32 (slice (encodeFrame p v cid seq d1 d2) 19 4) = BitVec.ofNat 32 d2.length := by
  have hl := pad12_length h1
  refine ⟨rfl, ?_, ?_⟩
  · rw [frameFields]
    congr 1
    · show lowNibble (packNibbles _ _) = _; simp
    · conv => rhs; rw [← be16_toBe16 (trunc16 seq)]
      rfl
    · simp [slice, encodeFrame, frameBytes, toBe16]
      rw [List.take_append_of_le_length (by omega), ← hl]; simp
    · simp only [slice, encodeFrame, frameBytes, toBe16, List.cons_append, List.nil_append, List.drop_succ_cons,
        List.append_assoc]
      rw [List.drop_append_of_le_length (by omega)]
      rw [List.drop_eq_nil_of_le (by omega)]
      rfl
    · simp only [encodeFrame, frameBytes, toBe16, toLe32, List.cons_append, List.nil_append, List.drop_succ_cons,
        List.append_assoc]
      rw [List.drop_append, List.drop_append]
      simp [hl, reservedBytes, List.drop_eq_nil_of_le (show (pad12 d1).length ≤ 19 by omega)]
  · have : slice (encodeFrame p v cid seq d1 d2) 19 4 = toLe32 (BitVec.ofNat 32 d2.length) := by
      simp only [slice, encodeFrame, frameBytes, toBe16, List.cons_append, List.nil_append, List.drop_succ_cons,
        List.append_assoc]
      rw [List.drop_append, List.drop_append]
      simp [hl, toLe32, reservedBytes, List.drop_eq_nil_of_le (show (pad12 d1).length ≤ 15 by omega)]
    rw [this, le32_toLe32]

/-! ### The extend commands -/

/-- EXT_SEQ succeeds or changes `RES` only (43_extend.md R150). -/
theorem exec_extSeq (l : U64) (s : State) :
    (s.msg.valid = true ∧ s.msg.seqExt = false ∧
      exec (.extSeq l) s = .next ((s.setMsg { s.msg with seq := l, seqExt := true }).setRes (Res.success 8))) ∨
    ((s.msg.valid = false ∨ s.msg.seqExt = true) ∧ 
      ∃ e, exec (.extSeq l) s = .next (s.setRes (Res.failure 8 (.badCommand e)))) := by
  simp only [exec, execExtSeq, raise_eq, done_eq, afterFailure_badCommand]
  cases hv : s.msg.valid <;> cases he : s.msg.seqExt <;> simp <;> exact ⟨_, rfl⟩

/-- EXT_WS succeeds or changes `RES` only (43_extend.md R151). -/
theorem exec_extWs (l : U64) (s : State) :
    (s.msg.valid = true ∧ hasWindow s.msg.variant = true ∧ s.msg.wsExt = false ∧
      exec (.extWs l) s = .next ((s.setMsg { s.msg with windowStart := l, wsExt := true }).setRes (Res.success 9))) ∨
    ((s.msg.valid = false ∨ hasWindow s.msg.variant = false ∨ s.msg.wsExt = true) ∧ 
      ∃ e, exec (.extWs l) s = .next (s.setRes (Res.failure 9 (.badCommand e)))) := by
  simp only [exec, execExtWs, raise_eq, done_eq, afterFailure_badCommand]
  cases hv : s.msg.valid <;> cases hw : hasWindow s.msg.variant <;> cases he : s.msg.wsExt <;> simp <;>
    exact ⟨_, rfl⟩

/-! ### PARSE -/

/-- PARSE runs the frame instruction of its variant, or leaves the invalid message with the cursor inside the frame
(41_parse.md R108, R109, R166). -/
theorem exec_parse_cases (s : State) :
    (∃ v, 23 ≤ s.rx.length ∧ s.params.variantOf (highNibble (s.rx.getD 1 0)) = some v ∧
      (v = .data → (frameFields s.rx).nibble.toNat ≤ 12) ∧
      (highNibble (s.rx.getD 1 0) = s.params.opcData → (frameFields s.rx).nibble.toNat ≤ 12) ∧
      wireLength s.rx = s.rx.length - 23 ∧
      exec .parse s = exec (.ofFrame (frameFields s.rx) v) (s.setPos s.rx.length)) ∨
    (∃ e k, k ≤ s.rx.length ∧
      exec .parse s = .next (((s.setPos k).setRes (Res.failure 2 (.parse e))).setMsg .invalid)) := by
  rw [show exec .parse s = execParse s from rfl, execParse_eq]
  simp only [raise_eq, afterFailure_parse]
  split
  · exact .inr ⟨_, 0, by omega, rfl⟩
  · split
    · exact .inr ⟨_, 16, by omega, rfl⟩
    · split
      · split
        · exact .inr ⟨_, _, Nat.le_refl _, rfl⟩
        · rename_i h1 h2 h3 _ v hv
          refine .inl ⟨v, by omega, hv, ?_, ?_, by rw [wireLength_eq, h3], dispatchFrame_eq ..⟩
          · rintro rfl
            have := Params.opcode_of_variantOf hv
            have h2' := h2
            simp only [not_and] at h2'
            have := h2' this.symm
            simp only [frameFields_nibble]
            omega
          · intro ho
            simp only [not_and] at h2
            have := h2 ho
            simp only [frameFields_nibble]
            omega
      · exact .inr ⟨_, 23, by omega, rfl⟩

/-! ### A step and a whole command -/

/-- A step takes the first action off the port and performs it. -/
theorem step_cons {s : State} {a rest} (h : s.port = a :: rest) : step s = runAction a (s.setPort rest) := by
  simp [step, h]

/-- A run whose first step answers a state goes on from there. -/
theorem core_run_succ {k : Nat} {s t : State} (h : step s = .next t) :
    Sys2Proof.core.run (k + 1) s = Sys2Proof.core.run k t := by
  have h' : Sys2Proof.core.step s = .next t := h
  simp only [Host.Core.run, h']

/-- Two host writes that fit, as the first two steps of a run (20_memory.md R41). -/
theorem core_run_writes {k : Nat} {s : State} {b1 b2 : Bytes} (rest : List HostAction)
    (h1 : b1.length + s.rxt.length ≤ s.params.maxFrame) (h2 : b1.length + b2.length ≤ s.params.maxFrame) :
    Sys2Proof.core.run (k + 2) (s.setPort ([.wrRxh b1, .wrRxt b2] ++ rest)) =
      Sys2Proof.core.run k ((((s.setRxh b1).setRxt b2).setMsg .invalid).setPort rest) := by
  have e1 : step (s.setPort ([.wrRxh b1, .wrRxt b2] ++ rest)) =
      .next (((s.setRxh b1).setMsg .invalid).setPort (.wrRxt b2 :: rest)) := by
    rw [step_cons rfl]
    simp only [runAction, writeRxh]
    rw [if_pos (by simpa using h1)]
    rfl
  have e2 : step (((s.setRxh b1).setMsg .invalid).setPort (.wrRxt b2 :: rest)) =
      .next ((((s.setRxh b1).setRxt b2).setMsg .invalid).setPort rest) := by
    rw [step_cons rfl]
    simp only [runAction, writeRxt]
    rw [if_pos (by simpa using h2)]
    rfl
  rw [core_run_succ e1, core_run_succ e2]

theorem bv4_cases : ∀ c : BitVec 4,
    c = 0 ∨ c = 1 ∨ c = 2 ∨ c = 3 ∨ c = 4 ∨ c = 5 ∨ c = 6 ∨ c = 7 ∨ c = 8 ∨ c = 9 ∨ c = 10 ∨ c = 11 ∨ c = 12 ∨
      c = 13 ∨ c = 14 ∨ c = 15 := by decide

/-- The codes of R83 decode to no instruction. -/
theorem decodeCommand_undefined {c : BitVec 4} (h : c = 0x0 ∨ 0xA ≤ c.toNat) (o : Operands) :
    decodeCommand ⟨c, o⟩ = .reject (.undefinedCommand c) := by
  rcases bv4_cases c with h1 | h1 | h1 | h1 | h1 | h1 | h1 | h1 | h1 | h1 | h1 | h1 | h1 | h1 | h1 | h1 <;> subst h1 <;>
    first | rfl | (exfalso; revert h; decide)

/-- Everything a presented command can do to the block (60_exceptions.md R165 to R169). -/
inductive CommandEffect (c : BitVec 4) (s : State) : State → Prop where
  | parseOk (m : Message) (k : Nat) (hc : c = 2) (hm : m.DecodedInv) (hv : m.valid = true)
      (hd : m.data2.length = s.rx.length - 23) (h23 : 23 ≤ s.rx.length) (hk : k = s.rx.length) :
      CommandEffect c s (((s.setPos k).setMsg m).setRes (Res.success 2))
  | parseBad (e : ParseFailure) (k : Nat) (hc : c = 2) :
      CommandEffect c s (((s.setPos k).setRes (Res.failure 2 (.parse e))).setMsg .invalid)
  | encOk (v cid seq d1 d2) (h1 : d1.length ≤ 12) (h2 : d2.length ≤ s.params.maxData2) (hc : c.toNat ∈ [1, 3, 4, 5, 6, 7]) :
      CommandEffect c s ((s.setTx (encodeFrame s.params v cid seq d1 d2)).setRes (Res.success c))
  | encBad (e) (hc : c.toNat ∈ [1, 3, 4, 5, 6, 7]) :
      CommandEffect c s ((s.setRes (Res.failure c (.encodeReject e))).setTx [])
  | extSeq (l) (hc : c = 8) (hv : s.msg.valid = true) :
      CommandEffect c s ((s.setMsg { s.msg with seq := l, seqExt := true }).setRes (Res.success 8))
  | extWs (l) (hc : c = 9) (hv : s.msg.valid = true) (hw : hasWindow s.msg.variant = true) :
      CommandEffect c s ((s.setMsg { s.msg with windowStart := l, wsExt := true }).setRes (Res.success 9))
  | bad (e) (hc : c.toNat ∈ [0, 8, 9, 10, 11, 12, 13, 14, 15]) :
      CommandEffect c s (s.setRes (Res.failure c (.badCommand e)))

/-- Every command completes with one of these effects. -/
theorem runCommand_effect (w : CommandWord) (s : State) : ∃ t, runCommand w s = .next t ∧ CommandEffect w.code s t := by
  obtain ⟨c, o⟩ := w
  have enc : ∀ i d2, encodedData2 i = some d2 → decodeCommand ⟨c, o⟩ = .instr i →
      c.toNat ∈ [1, 3, 4, 5, 6, 7] →
     (∃ o', encode Params.default i = .command ⟨c, o'⟩) → ∃ t, runCommand ⟨c, o⟩ s = .next t ∧ CommandEffect c s t := by
    intro i d2 hi hd hc ⟨o', ho⟩
    obtain ⟨c', h1, h2, h3⟩ := exec_enc hi
    obtain ⟨w, hw, hwc⟩ := h1 Params.default
    rw [ho] at hw; cases hw
    simp only at hwc; subst hwc
    simp only [runCommand, hd]
    rcases h3 s with ⟨v, cid, seq, d1, g1, g2, hx⟩ | ⟨e, hx⟩
    · exact ⟨_, hx, .encOk _ _ _ _ _ g1 g2 hc⟩
    · exact ⟨_, hx, .encBad _ hc⟩
  have und : (c = 0x0 ∨ 0xA ≤ c.toNat) → c.toNat ∈ [0, 8, 9, 10, 11, 12, 13, 14, 15] →
      ∃ t, runCommand ⟨c, o⟩ s = .next t ∧ CommandEffect c s t := by
    intro h h'
    simp only [runCommand, decodeCommand_undefined h o, execUndefined, raise_eq]
    exact ⟨_, rfl, .bad _ h'⟩
  rcases bv4_cases c with h1 | h1 | h1 | h1 | h1 | h1 | h1 | h1 | h1 | h1 | h1 | h1 | h1 | h1 | h1 | h1 <;> subst h1
  case inr.inl => exact enc _ _ rfl rfl (by decide) ⟨_, rfl⟩
  case inr.inr.inl =>
    show ∃ t, exec .parse s = .next t ∧ _
    rcases exec_parse_cases s with ⟨v, h1, hv, hd, -, hl, he⟩ | ⟨e, k, hk, he⟩
    · obtain ⟨m, hm, g1, -, -, -, -, -, g7, -, g9⟩ := exec_ofFrame (frameFields s.rx) v (s.setPos s.rx.length) hd
      refine ⟨_, he.trans hm, ?_⟩
      refine .parseOk m _ rfl (g9 ?_) g1 (by rw [g7]; simp) h1 (by simp; omega)
      simp only [frameFields]
      exact slice_length_of_le (by omega)
    · exact ⟨_, he, .parseBad e k rfl⟩
  case inr.inr.inr.inl => exact enc _ _ rfl rfl (by decide) ⟨_, rfl⟩
  case inr.inr.inr.inr.inl => exact enc _ _ rfl rfl (by decide) ⟨_, rfl⟩
  case inr.inr.inr.inr.inr.inl => exact enc _ _ rfl rfl (by decide) ⟨_, rfl⟩
  case inr.inr.inr.inr.inr.inr.inl => exact enc _ _ rfl rfl (by decide) ⟨_, rfl⟩
  case inr.inr.inr.inr.inr.inr.inr.inl => exact enc _ _ rfl rfl (by decide) ⟨_, rfl⟩
  case inr.inr.inr.inr.inr.inr.inr.inr.inl =>
    show ∃ t, exec (.extSeq o.logical) s = .next t ∧ _
    rcases exec_extSeq o.logical s with ⟨hv, _, hx⟩ | ⟨_, e, hx⟩
    · exact ⟨_, hx, .extSeq _ rfl hv⟩
    · exact ⟨_, hx, .bad _ (by simp)⟩
  case inr.inr.inr.inr.inr.inr.inr.inr.inr.inl =>
    show ∃ t, exec (.extWs o.logical) s = .next t ∧ _
    rcases exec_extWs o.logical s with ⟨hv, hw, _, hx⟩ | ⟨_, e, hx⟩
    · exact ⟨_, hx, .extWs _ rfl hv hw⟩
    · exact ⟨_, hx, .bad _ (by simp)⟩
  all_goals exact und (by decide) (by decide)

end Sys2Proof.Machine
end

