-- ==== Sys2Proof/Laws/PerInstr.lean ====
section
/-! SUPPORT. The word of each instruction, one lemma for each constructor: a command's word decodes to it, and a frame
instruction's word is its frame's bytes under its variant's opcode (30_encoding.md R61, R73, R78, R79). -/

namespace Sys2Proof.Laws.EncodedWord

/-- What the word of an instruction is. -/
def Statement (i : Instr) : Prop :=
  ∀ p : Params, match encode p i with
    | .command w => decodeCommand w = .instr i
    | .frame b => ∃ f v, i = .ofFrame f v ∧ b = frameBytes (p.opcode v) f

theorem syn (f : Frame) : Statement (.syn f) := fun _ => ⟨f, .syn, rfl, rfl⟩
theorem ack (f : Frame) : Statement (.ack f) := fun _ => ⟨f, .ack, rfl, rfl⟩
theorem keepalive (f : Frame) : Statement (.keepalive f) := fun _ => ⟨f, .keepalive, rfl, rfl⟩
theorem data (f : Frame) : Statement (.data f) := fun _ => ⟨f, .data, rfl, rfl⟩
theorem fin (f : Frame) : Statement (.fin f) := fun _ => ⟨f, .fin, rfl, rfl⟩
theorem encRaw (var : BitVec 3) (cid : Byte) (seq : U64) (d1 d2 : Bytes) : Statement (.encRaw var cid seq d1 d2) :=
  fun _ => rfl
theorem parse : Statement .parse := fun _ => rfl
theorem encSyn (cid : Byte) (seq : U64) (scid : Byte) (ver : U16) (role : BitVec 2) :
    Statement (.encSyn cid seq scid ver role) := fun _ => rfl
theorem encAck (cid : Byte) (seq ws space : U64) : Statement (.encAck cid seq ws space) := fun _ => rfl
theorem encKeepalive (cid : Byte) (ws space : U64) : Statement (.encKeepalive cid ws space) := fun _ => rfl
theorem encData (cid : Byte) (seq : U64) (chunk : Bytes) : Statement (.encData cid seq chunk) := fun _ => rfl
theorem encFin (cid : Byte) (seq : U64) (reason : Byte) : Statement (.encFin cid seq reason) := fun _ => rfl
theorem extSeq (logical : U64) : Statement (.extSeq logical) := fun _ => rfl
theorem extWs (logical : U64) : Statement (.extWs logical) := fun _ => rfl

end Sys2Proof.Laws.EncodedWord
end

