-- ==== Sys2Proof/Tests/Slice0.lean ====
section
/-! SUPPORT. Tests. Every expected value is written out from the spec's encoding tables (30_encoding.md) or is a vector of
95_test_vectors.md, named in the comment. -/

namespace Sys2Proof.Tests

open Sys2Proof Sys2Proof.Machine

/-! ### Helpers -/

/-- The state of an answer, where it is one. -/
def nextOf (o : Out) : Option State :=
  match o with
  | .next s => some s
  | .fault _ => none
  | .refused _ => none

/-- The reset state with a frame in the receive buffers at the nominal split. -/
def rxState (b : Bytes) : State := (State.reset.setRxh (b.take 16)).setRxt (b.drop 16)

/-- `TX` and `RES` after an instruction. -/
def txRes (o : Out) : Option (Bytes × Res) := (nextOf o).map fun s => (s.tx, s.res)

/-- `MSG` and `RES` after an instruction. -/
def msgRes (o : Out) : Option (Message × Res) := (nextOf o).map fun s => (s.msg, s.res)

/-- The default reserved bytes and an empty `data2`: bytes 16 to 22. -/
def tail7 : Bytes := [0x41, 0x01, 0x00, 0x00, 0x00, 0x00, 0x00]

/-- The frame of S1: ACK, connection 5, sequence 300, window start 1000, window space 64. -/
def ackBytes : Bytes := [0x05, 0x10, 0x01, 0x2C, 0x03, 0xE8, 0x00, 0x40] ++ zeros 8 ++ tail7

/-- The message of S1. -/
def ackMessage : Message :=
  { Message.invalid with
    valid := true, variant := .ack, connId := 5, seq := 300, d1len := 12,
    data1 := [0x03, 0xE8, 0x00, 0x40] ++ zeros 8, windowStart := 1000, windowSpace := 64 }

/-- The state after S1's PARSE. -/
def ackState : State := (rxState ackBytes).setMsg ackMessage

/-! ### WellFormed refuses an ill-formed term for each check -/

def goodFrame : Frame := { connId := 1, nibble := 12, seq := 1, data1 := zeros 12, reserved := zeros 3, data2 := [] }

theorem test_wf_good_frame : (Instr.data goodFrame).wellFormed .default = true := by decide
theorem test_wf_data1_not_12 : (Instr.syn { goodFrame with data1 := zeros 11 }).wellFormed .default = false := by decide
theorem test_wf_reserved_not_3 : (Instr.ack { goodFrame with reserved := [] }).wellFormed .default = false := by decide
theorem test_wf_data2_too_long : (Instr.keepalive { goodFrame with data2 := zeros 51 }).wellFormed .default = false := by decide
theorem test_wf_fin_frame : (Instr.fin { goodFrame with data1 := zeros 13 }).wellFormed .default = false := by decide
theorem test_wf_data_nibble_13 : (Instr.data { goodFrame with nibble := 13 }).wellFormed .default = false := by decide
theorem test_wf_raw_selector_5 : (Instr.encRaw 5 0 0 [] []).wellFormed .default = false := by decide
theorem test_wf_raw_data1_13 : (Instr.encRaw 3 0 0 (zeros 13) []).wellFormed .default = false := by decide
theorem test_wf_raw_data2_51 : (Instr.encRaw 3 0 0 [] (zeros 51)).wellFormed .default = false := by decide
theorem test_wf_syn_role_3 : (Instr.encSyn 0 0 0 0 3).wellFormed .default = false := by decide
theorem test_wf_chunk_63 : (Instr.encData 0 0 (zeros 63)).wellFormed .default = false := by decide

/-! ### Decoding: each constructor's word, written out from R61 and R78 -/

/-- V-D2, byte by byte: connection 3, opcode 0, sequence 2, sender id 200, version 0. -/
theorem test_decode_syn :
    decode .default (.frame ([0x03, 0x00, 0x00, 0x02, 0xC8, 0x00, 0x00, 0x01] ++ zeros 8 ++ tail7)) =
      .instr (.syn { connId := 3, nibble := 0, seq := 2, data1 := [0xC8, 0, 0, 1] ++ zeros 8,
                     reserved := [0x41, 0x01, 0x00], data2 := [] }) := by decide
/-- V-P20: nibble 15 ignored, reserved bytes FF, non-zero padding kept. -/
theorem test_decode_ack :
    decode .default (.frame ([0x05, 0x1F, 0x01, 0x2C, 0x03, 0xE8, 0x00, 0x40, 0xDE, 0xAD] ++ zeros 6 ++
      [0xFF, 0xFF, 0xFF, 0, 0, 0, 0])) =
      .instr (.ack { connId := 5, nibble := 15, seq := 300, data1 := [0x03, 0xE8, 0x00, 0x40, 0xDE, 0xAD] ++ zeros 6,
                     reserved := [0xFF, 0xFF, 0xFF], data2 := [] }) := by decide
/-- V-P22. -/
theorem test_decode_keepalive :
    decode .default (.frame ([0x09, 0x20, 0x01, 0x02, 0x12, 0x34, 0x02, 0x00] ++ zeros 8 ++ tail7)) =
      .instr (.keepalive { connId := 9, nibble := 0, seq := 258, data1 := [0x12, 0x34, 0x02, 0x00] ++ zeros 8,
                           reserved := [0x41, 0x01, 0x00], data2 := [] }) := by decide
/-- V-P21. -/
theorem test_decode_data :
    decode .default (.frame [0x08, 0x33, 0x02, 0x01, 0x41, 0x42, 0x43, 0x99, 0x98, 0x97, 0x96, 0x95, 0x94, 0x93, 0x92,
      0x91, 0x00, 0x00, 0x00, 0x02, 0x00, 0x00, 0x00, 0x44, 0x45]) =
      .instr (.data { connId := 8, nibble := 3, seq := 513,
                      data1 := [0x41, 0x42, 0x43, 0x99, 0x98, 0x97, 0x96, 0x95, 0x94, 0x93, 0x92, 0x91],
                      reserved := [0, 0, 0], data2 := [0x44, 0x45] }) := by decide
/-- V-P23. -/
theorem test_decode_fin :
    decode .default (.frame ([0x05, 0x40, 0x01, 0x2D, 0x07] ++ zeros 11 ++ [0x41, 0x01, 0x00, 0x03, 0, 0, 0, 1, 2, 3])) =
      .instr (.fin { connId := 5, nibble := 0, seq := 301, data1 := [0x07] ++ zeros 11, reserved := [0x41, 0x01, 0x00],
                     data2 := [1, 2, 3] }) := by decide

/-- Operand lines that all differ from their idle values. -/
def busyLines : Operands where
  var := 3
  cid := 7
  seq := 0x12345
  d1 := [1, 2]
  d2 := [3]
  scid := 17
  ver := 258
  role := 2
  ws := 70000
  space := 64
  chunk := [4, 5]
  reason := 9
  logical := 0x1012C

theorem test_decode_enc_raw : decodeCommand { code := 0x1, ops := busyLines } = .instr (.encRaw 3 7 0x12345 [1, 2] [3]) := by decide
theorem test_decode_parse : decodeCommand { code := 0x2, ops := busyLines } = .instr .parse := by decide
theorem test_decode_enc_syn : decodeCommand { code := 0x3, ops := busyLines } = .instr (.encSyn 7 0x12345 17 258 2) := by decide
theorem test_decode_enc_ack : decodeCommand { code := 0x4, ops := busyLines } = .instr (.encAck 7 0x12345 70000 64) := by decide
theorem test_decode_enc_keepalive : decodeCommand { code := 0x5, ops := busyLines } = .instr (.encKeepalive 7 70000 64) := by decide
theorem test_decode_enc_data : decodeCommand { code := 0x6, ops := busyLines } = .instr (.encData 7 0x12345 [4, 5]) := by decide
theorem test_decode_enc_fin : decodeCommand { code := 0x7, ops := busyLines } = .instr (.encFin 7 0x12345 9) := by decide
theorem test_decode_ext_seq : decodeCommand { code := 0x8, ops := busyLines } = .instr (.extSeq 0x1012C) := by decide
theorem test_decode_ext_ws : decodeCommand { code := 0x9, ops := busyLines } = .instr (.extWs 0x1012C) := by decide
theorem test_decode_undefined_codes :
    [0x0, 0xA, 0xB, 0xC, 0xD, 0xE, 0xF].map (fun c => decodeCommand { code := c, ops := busyLines }) =
      [0x0, 0xA, 0xB, 0xC, 0xD, 0xE, 0xF].map (fun c => Decoded.reject (.undefinedCommand c)) := by decide

/-- The table's bits: five opcodes in bits 7:4, nine codes in bits 3:0 (R84). -/
theorem test_table_words :
    [0x00, 0x10, 0x20, 0x30, 0x40].map (decodeTableWord 8) =
      [Variant.syn, .ack, .keepalive, .data, .fin].map (fun v =>
        some (Instr.ofFrame { connId := 0, nibble := 0, seq := 0, data1 := zeros 12, reserved := zeros 3, data2 := [] } v)) ∧
    [0x1, 0x2, 0x3, 0x4, 0x5, 0x6, 0x7, 0x8, 0x9].map (decodeTableWord 8) =
      [some (.encRaw 0 0 0 [] []), some .parse, some (.encSyn 0 0 0 0 0), some (.encAck 0 0 0 0),
       some (.encKeepalive 0 0 0), some (.encData 0 0 []), some (.encFin 0 0 0), some (.extSeq 0), some (.extWs 0)] ∧
    [0xA, 0xF, 0x50, 0xF0].map (decodeTableWord 8) = [none, none, none, none] := by decide

/-- Every row of the table runs as the first instruction after reset. -/
theorem test_table_words_run :
    ([0x00, 0x10, 0x20, 0x30, 0x40].map fun w => (nextOf (step (State.reset.withFetchWord 8 w))).map fun t => (t.msg.valid, t.msg.variant, t.res)) =
      ([Variant.syn, .ack, .keepalive, .data, .fin].map fun v => some (true, v, { cmd := 2, status := .ok, info0 := 0, info1 := 0 })) ∧
    ([0x1, 0x2, 0x3, 0x4, 0x5, 0x6, 0x7, 0x8, 0x9].map fun w => (nextOf (step (State.reset.withFetchWord 8 w))).map fun t => (t.res.cmd.toNat, t.res.status)) =
      [some (1, .ok), some (2, .truncated), some (3, .ok), some (4, .ok), some (5, .ok), some (6, .ok), some (7, .ok),
       some (8, .badCommand), some (9, .badCommand)] := by decide

/-! ### The ENC commands -/

def okRes (cmd : BitVec 4) : Res := { cmd := cmd, status := .ok, info0 := 0, info1 := 0 }

/-- V-E2. -/
theorem test_enc_raw_data :
    txRes (exec (.encRaw 3 8 513 [0x41, 0x42, 0x43] [0x44, 0x45]) .reset) =
      some ([0x08, 0x33, 0x02, 0x01, 0x41, 0x42, 0x43] ++ zeros 9 ++ [0x41, 0x01, 0x00, 0x02, 0, 0, 0, 0x44, 0x45], okRes 1) := by decide
/-- V-E9: the selector is checked before the lengths, and `TX` is emptied. -/
theorem test_enc_raw_reject_order :
    txRes (exec (.encRaw 7 0 0 (zeros 13) (zeros 51)) (State.reset.setTx [1])) =
      some ([], { cmd := 1, status := .encodeReject, info0 := 3, info1 := 7 }) := by decide
/-- V-N1. -/
theorem test_enc_syn :
    txRes (exec (.encSyn 3 2 200 1 2) .reset) =
      some ([0x03, 0x00, 0x00, 0x02, 0xC8, 0x00, 0x01, 0x02] ++ zeros 8 ++ tail7, okRes 3) := by decide
/-- V-N3. -/
theorem test_enc_syn_role_3 :
    txRes (exec (.encSyn 0 0 17 0 3) .reset) = some ([], { cmd := 3, status := .encodeReject, info0 := 4, info1 := 3 }) := by decide
/-- S1. -/
theorem test_enc_ack : txRes (exec (.encAck 5 300 1000 64) .reset) = some (ackBytes, okRes 4) := by decide
/-- V-N5: the most negative `space` clamps to 0. -/
theorem test_enc_ack_clamp :
    txRes (exec (.encAck 7 1 2 0x8000000000000000) .reset) =
      some ([0x07, 0x10, 0x00, 0x01, 0x00, 0x02, 0x00, 0x00] ++ zeros 8 ++ tail7, okRes 4) := by decide
/-- S7: 70000 truncates to 0x1170 and −5 clamps to 0. -/
theorem test_enc_keepalive :
    txRes (exec (.encKeepalive 9 70000 (-5)) .reset) =
      some ([0x09, 0x20, 0x00, 0x00, 0x11, 0x70, 0x00, 0x00] ++ zeros 8 ++ tail7, okRes 5) := by decide
/-- S2: 20 bytes, 12 in `data1` and 8 in `data2`. -/
theorem test_enc_data :
    txRes (exec (.encData 2 7 [0, 1, 2, 3, 4, 5, 6, 7, 8, 9, 10, 11, 12, 13, 14, 15, 16, 17, 18, 19]) .reset) =
      some ([0x02, 0x3C, 0x00, 0x07, 0, 1, 2, 3, 4, 5, 6, 7, 8, 9, 10, 11, 0x41, 0x01, 0x00, 0x08, 0, 0, 0,
             12, 13, 14, 15, 16, 17, 18, 19], okRes 6) := by decide
/-- V-N10: the overflow does not fit `data2`. -/
theorem test_enc_data_reject :
    txRes (exec (.encData 0 0 (zeros 63)) .reset) = some ([], { cmd := 6, status := .encodeReject, info0 := 2, info1 := 51 }) := by decide
/-- S9: the last high vector. -/
theorem test_enc_fin :
    txRes (exec (.encFin 255 65535 255) .reset) = some ([0xFF, 0x40, 0xFF, 0xFF, 0xFF] ++ zeros 11 ++ tail7, okRes 7) := by decide

/-! ### PARSE and the frame variants -/

/-- S1. -/
theorem test_parse_ack : msgRes (exec .parse (rxState ackBytes)) = some (ackMessage, okRes 2) := by decide
/-- V-P5: the nibble is reported before the wrong length. -/
theorem test_parse_nibble_before_length :
    msgRes (exec .parse (rxState ([0x01, 0x3F, 0x00, 0x01] ++ zeros 12 ++ [0x41, 0x01, 0x00, 0x09, 0, 0, 0]))) =
      some (.invalid, { cmd := 2, status := .invalidLength, info0 := 15, info1 := 12 }) := by decide
/-- V-P10: the length is reported before the unknown opcode. -/
theorem test_parse_length_before_opcode :
    msgRes (exec .parse (rxState ([0x05, 0xF0, 0x00, 0x01] ++ zeros 12 ++ [0x41, 0x01, 0x00, 0x32, 0, 0, 0] ++ zeros 40))) =
      some (.invalid, { cmd := 2, status := .lengthMismatch, info0 := 50, info1 := 40 }) := by decide
/-- V-P12. -/
theorem test_parse_unsupported :
    msgRes (exec .parse (rxState ([0x05, 0xFE, 0x00, 0x01] ++ zeros 12 ++ tail7))) =
      some (.invalid, { cmd := 2, status := .unsupportedOpcode, info0 := 15, info1 := 0 }) := by decide
/-- V-P2. -/
theorem test_parse_truncated :
    msgRes (exec .parse (rxState (zeros 22))) =
      some (.invalid, { cmd := 2, status := .truncated, info0 := 22, info1 := 23 }) := by decide
/-- V-D3: the version is unsigned. -/
theorem test_syn_frame :
    msgRes (exec .parse (rxState ([0x03, 0x00, 0x00, 0x02, 0xC8, 0xFF, 0xFF, 0x02] ++ zeros 8 ++ tail7))) =
      some ({ Message.invalid with
                valid := true, connId := 3, seq := 2, d1len := 12, data1 := [0xC8, 0xFF, 0xFF, 0x02] ++ zeros 8,
                senderConnId := 200, version := 65535, role := .acceptor }, okRes 2) := by decide
/-- V-D2: version 0, the role byte is not read. -/
theorem test_syn_frame_version_0 :
    msgRes (exec .parse (rxState ([0x03, 0x00, 0x00, 0x02, 0xC8, 0x00, 0x00, 0x01] ++ zeros 8 ++ tail7))) =
      some ({ Message.invalid with
                valid := true, connId := 3, seq := 2, d1len := 12, data1 := [0xC8, 0x00, 0x00, 0x01] ++ zeros 8,
                senderConnId := 200 }, okRes 2) := by decide
/-- V-D6: no sign extension. -/
theorem test_ack_frame :
    msgRes (exec .parse (rxState ([0xFF, 0x10, 0xFF, 0xFF] ++ List.replicate 12 0xFF ++ tail7))) =
      some ({ Message.invalid with
                valid := true, variant := .ack, connId := 255, seq := 65535, d1len := 12,
                data1 := List.replicate 12 0xFF, windowStart := 65535, windowSpace := 65535 }, okRes 2) := by decide
/-- V-P22: a KEEPALIVE's sequence number is carried. -/
theorem test_keepalive_frame :
    msgRes (exec .parse (rxState ([0x09, 0x20, 0x01, 0x02, 0x12, 0x34, 0x02, 0x00] ++ zeros 8 ++ tail7))) =
      some ({ Message.invalid with
                valid := true, variant := .keepalive, connId := 9, seq := 258, d1len := 12,
                data1 := [0x12, 0x34, 0x02, 0x00] ++ zeros 8, windowStart := 4660, windowSpace := 512 }, okRes 2) := by decide
/-- V-P21: the bytes beyond the nibble are dropped. -/
theorem test_data_frame :
    (nextOf (exec .parse (rxState [0x08, 0x33, 0x02, 0x01, 0x41, 0x42, 0x43, 0x99, 0x98, 0x97, 0x96, 0x95, 0x94, 0x93,
      0x92, 0x91, 0x00, 0x00, 0x00, 0x02, 0x00, 0x00, 0x00, 0x44, 0x45]))).map
        (fun t => (t.msg.d1len, t.msg.data1, t.msg.payload, t.pos)) =
      some (3, [0x41, 0x42, 0x43] ++ zeros 9, [0x41, 0x42, 0x43, 0x44, 0x45], 25) := by decide
/-- V-P23: a FIN frame with `data2`. -/
theorem test_fin_frame :
    msgRes (exec .parse (rxState ([0x05, 0x40, 0x01, 0x2D, 0x07] ++ zeros 11 ++ [0x41, 0x01, 0x00, 0x03, 0, 0, 0, 1, 2, 3]))) =
      some ({ Message.invalid with
                valid := true, variant := .fin, connId := 5, seq := 301, d1len := 12, data1 := [0x07] ++ zeros 11,
                data2 := [1, 2, 3], reason := 7 }, okRes 2) := by decide
/-- V-P25: the split does not matter. -/
theorem test_split :
    msgRes (exec .parse (State.reset.setRxh ackBytes)) = some (ackMessage, okRes 2) ∧
    msgRes (exec .parse (State.reset.setRxt ackBytes)) = some (ackMessage, okRes 2) := by decide

/-! ### EXT_SEQ and EXT_WS -/

/-- V-X1. -/
theorem test_ext_seq :
    msgRes (exec (.extSeq 0x1012C) ackState) = some ({ ackMessage with seq := 65836, seqExt := true }, okRes 8) := by decide
/-- V-X5. -/
theorem test_ext_seq_twice :
    msgRes (exec (.extSeq 1) (ackState.setMsg { ackMessage with seq := 65836, seqExt := true })) =
      some ({ ackMessage with seq := 65836, seqExt := true }, { cmd := 8, status := .badCommand, info0 := 4, info1 := 0 }) := by decide
/-- V-X2. -/
theorem test_ext_ws :
    msgRes (exec (.extWs 0x203E8) ackState) = some ({ ackMessage with windowStart := 132072, wsExt := true }, okRes 9) := by decide
/-- V-X8: EXT_WS on a FIN. -/
theorem test_ext_ws_fin :
    msgRes (exec (.extWs 5) (ackState.setMsg { Message.invalid with valid := true, variant := .fin, d1len := 12 })) =
      some ({ Message.invalid with valid := true, variant := .fin, d1len := 12 },
            { cmd := 9, status := .badCommand, info0 := 3, info1 := 4 }) := by decide

/-! ### The host's side -/

/-- 95_test_vectors.md 2.7: code 0xC. -/
theorem test_undefined_code :
    nextOf (step (ackState.setPort [.command { code := 0xC, ops := {} }])) =
      some (ackState.setRes { cmd := 12, status := .badCommand, info0 := 1, info1 := 12 }) := by decide
/-- P2 step 4: a write releases the message and leaves `RES` and `TX`. -/
theorem test_wr_rxt :
    nextOf (step (ackState.setPort [.wrRxt [], .rdTx])) =
      some (((ackState.setRxt []).setMsg .invalid).setPort [.rdTx]) := by decide
theorem test_wr_rxh_too_long : nextOf (step (State.reset.setPort [.wrRxh (zeros 74)])) = none := by decide
theorem test_rd_msg :
    (nextOf (step (ackState.setPort [.rdMsg]))).map (·.reply) = some (some (.msg ackMessage (ackMessage.data1) 23)) := by decide

/-! ### A witness for the hypotheses of every statement that has some, at the boundaries of its clauses -/

/-- A state with one action to come, from a state. -/
abbrev withAction (a : HostAction) (s : State) : State := s.setPort [a]

/-- A command with operand lines, on the port. -/
abbrev withCommand (c : BitVec 4) (o : Operands) (s : State) : State := withAction (.command { code := c, ops := o }) s

/-- A DATA frame with nibble `nib` and `m` bytes of `data2`, its length field saying `len`. -/
def dataBytes (nib : BitVec 4) (len m : Nat) : Bytes :=
  [0x01, packNibbles 0x3 nib, 0x00, 0x07] ++ zeros 12 ++ [0x41, 0x01, 0x00] ++ toLe32 (BitVec.ofNat 32 len) ++ zeros m

def unknownBytes : Bytes := [0x05, 0xF0, 0x00, 0x01] ++ zeros 12 ++ tail7

theorem witness_ResetLeavesEveryItemAtItsValue :
    ((nextOf (exec .parse .reset)).map (fun t => decide (t.res.status ≠ .ok))) = some true ∧
    (nextOf (writeRxh [1] .reset)).isSome = true ∧ (nextOf (writeRxt [1] .reset)).isSome = true ∧
    ((nextOf (exec .parse (rxState ([0x03, 0x00, 0x00, 0x02, 0xC8, 0x00, 0x01, 0x02] ++ zeros 8 ++ tail7)))).map
      fun t => decide (t.msg.valid = true ∧ t.msg.variant = .syn)) = some true := by decide

theorem witness_ResetEventSetsEveryItem : (withAction .reset ackState).port = .reset :: [] := rfl

theorem witness_CommandsStraightAfterReset :
    encodedData2 (.encFin 1 2 3) = some [] ∧ ackState.params = Params.default := by decide

theorem witness_StepRunsTheDecodedCommand :
    (withCommand 0x9 busyLines ackState).port = [.command { code := 0x9, ops := busyLines }] ∧
    decodeCommand { code := 0x9, ops := busyLines } = .instr (.extWs 0x1012C) ∧ State.reset.port = [] := by decide

theorem witness_UndefinedCodeIsBadCommand :
    ∀ c ∈ ([0x0, 0xA, 0xF] : List (BitVec 4)),
      (withCommand c busyLines ackState).port = [.command { code := c, ops := busyLines }] ∧
      (c = 0x0 ∨ 0xA ≤ c.toNat) := by decide

theorem witness_DecodeOfEncodeIsIdentity :
    Params.default.Legal ∧ (Instr.data { goodFrame with data2 := zeros 50 }).wellFormed .default = true ∧
    (Instr.encData 0xFF 0xFFFF (zeros 62)).wellFormed .default = true := by decide

theorem witness_EncodeOfDecodedFrameIsTheFrame :
    (dataBytes 12 50 50).length = Params.default.maxFrame ∧
    ∃ i, decodeFrame .default (dataBytes 12 50 50) = .instr i := ⟨by decide, _, rfl⟩

theorem witness_ShortFrameIsTruncated :
    (rxState (zeros 22)).rx.length < 23 ∧ 23 ≤ (rxState (zeros 23)).rx.length := by decide

theorem witness_LengthFieldMustEqualWhatRemains :
    ∀ n ∈ [39, 40, 41], let s := rxState (dataBytes 12 n 40)
      23 ≤ s.rx.length ∧ (wireOpcode s.rx = s.params.opcData.toNat → wireNibble s.rx ≤ 12) ∧
      (wireLength s.rx = s.rx.length - 23 ↔ n = 40) := by decide

theorem witness_AcceptableFrameBecomesTheMessage :
    Acceptable .default (rxState (dataBytes 12 50 50)).rx ∧ Acceptable .default (rxState ackBytes).rx := by decide

theorem witness_ParseRunsTheDecodedFrame :
    ∃ f, decodeFrame .default (rxState ackBytes).rx = .instr (.ack f) := ⟨_, rfl⟩

theorem witness_ParseFailureClearsTheMessage :
    decodeFrame .default (rxState (zeros 22)).rx = .reject (.badFrame (.truncated 22)) ∧
    decodeFrame .default (rxState (dataBytes 13 9 0)).rx = .reject (.badFrame (.invalidLength 13 12)) ∧
    decodeFrame .default (rxState (dataBytes 12 50 40)).rx = .reject (.badFrame (.lengthMismatch 50 40)) ∧
    decodeFrame .default (rxState unknownBytes).rx = .reject (.badFrame (.unsupportedOpcode 15)) := by decide

theorem witness_ParseDependsOnTheFrameAlone :
    let s := State.reset.setRxh ackBytes
    let s' := ackState.setTx [1]
    s.rxh ++ s.rxt = s'.rxh ++ s'.rxt ∧ s.params = s'.params ∧ s ≠ s' := by decide

def reservedPlain : State := rxState (dataBytes 3 0 0)

/-- The same frame with reserved bytes FF FE FD, in a block with another marker and version. -/
def reservedOther : State :=
  { rxState ([0x01, 0x33, 0x00, 0x07] ++ zeros 12 ++ [0xFF, 0xFE, 0xFD, 0, 0, 0, 0]) with
    params := { Params.default with rsvMarker := 9, rsvVersion := 8 } }

theorem witness_ParseIgnoresTheReservedBytes :
    reservedPlain.rx.length = reservedOther.rx.length ∧
    (∀ k, k ≠ 16 → k ≠ 17 → k ≠ 18 → reservedPlain.rx.getD k 0 = reservedOther.rx.getD k 0) ∧
    reservedOther.params = { reservedPlain.params with rsvMarker := 9, rsvVersion := 8 } ∧
    reservedPlain.rx ≠ reservedOther.rx := by
  refine ⟨by decide, fun k h1 h2 h3 => ?_, by decide, by decide⟩
  have low : ∀ k < 23, k ≠ 16 → k ≠ 17 → k ≠ 18 → reservedPlain.rx.getD k 0 = reservedOther.rx.getD k 0 := by decide
  by_cases hk : k < 23
  · exact low k hk h1 h2 h3
  · have l1 : reservedPlain.rx.length = 23 := by decide
    have l2 : reservedOther.rx.length = 23 := by decide
    rw [List.getD_eq_default _ _ (by omega), List.getD_eq_default _ _ (by omega)]

theorem witness_MinimumLengthNeverFailsInParse :
    ∀ n ∈ ([13, 15] : List (BitVec 4)),
      (nextOf (exec .parse (rxState (dataBytes n 0 0)))).map (·.res.status) = some .invalidLength := by decide

/-- The logical lengths 2 and 3 of a SYN, 3 and 4 of an ACK, 0 and 1 of a FIN, and 12, with 12 bytes of `data1`. -/
theorem witness_variant_lengths :
    (2 < 3 ∧ 3 ≤ 3 ∧ 3 ≤ 12) ∧ (3 < 4 ∧ 4 ≤ 4 ∧ 4 ≤ 12) ∧ (0 < 1 ∧ 1 ≤ 1 ∧ 1 ≤ 12) ∧
    (zeros 12).length = 12 ∧ goodFrame.data1.length = 12 := by decide

theorem witness_RoleBytes : Params.default.Legal := by decide

theorem witness_DataFrameFields :
    goodFrame.data1.length = 12 ∧ goodFrame.nibble.toNat ≤ 12 ∧ 12 < ({ goodFrame with nibble := 13 } : Frame).nibble.toNat := by
  decide

theorem witness_EncodeFrameLayout :
    Params.default.Legal ∧ (zeros 12).length ≤ 12 ∧ (zeros 50).length ≤ Params.default.maxData2 := by decide

theorem witness_EncRawResult :
    4 < (5 : BitVec 3).toNat ∧ ((4 : BitVec 3).toNat ≤ 4 ∧ 12 < (zeros 13).length) ∧
    ((4 : BitVec 3).toNat ≤ 4 ∧ (zeros 12).length ≤ 12 ∧ State.reset.params.maxData2 < (zeros 51).length) ∧
    (variantSelector .fin = (4 : BitVec 3) ∧ (zeros 12).length ≤ 12 ∧
      (zeros 50).length ≤ State.reset.params.maxData2) := by decide

theorem witness_EncSynResult : (3 : BitVec 2) = 3 ∧ roleSelector .acceptor = (2 : BitVec 2) := by decide

theorem witness_EncDataResult :
    State.reset.params.maxData2 < (zeros 63).length - 12 ∧ (zeros 62).length - 12 ≤ State.reset.params.maxData2 := by decide

theorem witness_EncodedLength :
    encodedData2 (.encRaw 4 0 0 (zeros 12) (zeros 50)) = some (zeros 50) ∧
    (nextOf (exec (.encRaw 4 0 0 (zeros 12) (zeros 50)) .reset)).map (·.res.status) = some .ok := by decide

theorem witness_EncCommandsArePure :
    encodedData2 (.encAck 1 2 3 4) = some [] ∧ State.reset.params = ackState.params ∧ State.reset ≠ ackState := by decide

theorem witness_RejectsLeaveTheRest :
    (nextOf (exec (.encData 0 0 (zeros 63)) ackState)).map (·.res.status) = some .encodeReject ∧
    (nextOf (exec (.extSeq 1) .reset)).map (·.res.status) = some .badCommand := by decide

/-- An encoder that succeeds, with a split `k` and what `RXT` held before, for each row of R137. -/
theorem witness_RoundTripThroughTheWire :
    ackState.params.Legal ∧
    ∀ x ∈ [(Instr.encSyn 255 65535 7 0 2, 0), (.encSyn 0 0 7 1 2, 16), (.encAck 5 70000 3 (-1), 22), (.encKeepalive 9 2 3, 1),
        (.encData 1 1 (zeros 62), 66), (.encFin 255 65535 255, 23)],
      (nextOf (exec x.1 ackState)).map
        (fun t => decide (t.res.status = .ok ∧ (t.tx.take x.2).length + ackState.rxt.length ≤ ackState.params.maxFrame)) =
          some true := by decide

theorem witness_ExtSeqResult :
    State.reset.msg.valid = false ∧
    (let s := ackState.setMsg { ackMessage with seqExt := true }; s.msg.valid = true ∧ s.msg.seqExt = true) ∧
    (ackState.msg.valid = true ∧ ackState.msg.seqExt = false) := by decide

theorem witness_ExtWsResult :
    State.reset.msg.valid = false ∧
    (let s := ackState.setMsg { Message.invalid with valid := true, variant := .fin }
     s.msg.valid = true ∧ s.msg.variant ≠ .ack ∧ s.msg.variant ≠ .keepalive) ∧
    (let s := ackState.setMsg { ackMessage with wsExt := true }
     s.msg.valid = true ∧ (s.msg.variant = .ack ∨ s.msg.variant = .keepalive) ∧ s.msg.wsExt = true) ∧
    (let s := ackState.setMsg { ackMessage with variant := .keepalive }
     s.msg.valid = true ∧ (s.msg.variant = .ack ∨ s.msg.variant = .keepalive) ∧ s.msg.wsExt = false) := by decide

/-- The message of S1 with both fields extended. -/
def extendedState : State := ackState.setMsg { ackMessage with seqExt := true, wsExt := true }

theorem witness_ExtendIsOneShot :
    ((nextOf (exec (.extSeq 1) ackState)).map (·.res.status) = some .ok ∧
      (nextOf (exec (.extWs 1) ackState)).map (·.res.status) = some .ok) ∧
    (extendedState.msg.valid = true ∧ extendedState.msg.seqExt = true ∧ extendedState.msg.wsExt = true ∧
      (extendedState.msg.variant = .ack ∨ extendedState.msg.variant = .keepalive)) ∧
    (∀ a ∈ [HostAction.command { code := 0x9, ops := {} }, .command { code := 0x7, ops := {} }, .rdMsg],
      (nextOf (step (withAction a extendedState))).isSome = true ∧ a ≠ .reset ∧ a ≠ .command { code := 0x2, ops := {} }) ∧
    (∀ a ∈ [HostAction.command { code := 0x2, ops := {} }, .wrRxh [], .wrRxt [], .reset],
      (nextOf (step (withAction a extendedState))).isSome = true) := by decide

theorem witness_HostWritesReplaceAndInvalidate :
    let s := (State.reset.setRxh (zeros 3)).setRxt (zeros 7)
    (withAction (.wrRxh (zeros 66)) s).port = [.wrRxh (zeros 66)] ∧
    (zeros 66).length + s.rxt.length ≤ s.params.maxFrame ∧ s.params.maxFrame < (zeros 67).length + s.rxt.length ∧
    (withAction (.wrRxt (zeros 70)) s).port = [.wrRxt (zeros 70)] ∧
    s.rxh.length + (zeros 70).length ≤ s.params.maxFrame ∧ s.params.maxFrame < s.rxh.length + (zeros 71).length := by decide

theorem witness_HostReadsReturnTheItems :
    (withAction .rdTx ackState).port = [.rdTx] ∧ (withAction .rdMsg ackState).port = [.rdMsg] ∧
    (withAction .rdRes ackState).port = [.rdRes] := by decide

theorem witness_BufferAccesses :
    (0 + 23 ≤ ackBytes.length ∧ 22 + 1 ≤ ackBytes.length ∧ 23 + 0 ≤ ackBytes.length) ∧
    (21 + (zeros 2).length ≤ ackBytes.length ∧ (20 < 21 ∨ 21 + (zeros 2).length ≤ 20)) := by decide

/-- A step of each kind of action that answers a state and changes what it may change. -/
theorem witness_OnlyTheirActionsWriteEachItem :
    (nextOf (step (withAction (.wrRxh []) ackState))).map (fun t => decide (t.rxh ≠ ackState.rxh ∧ t.msg ≠ ackState.msg)) =
      some true ∧
    (nextOf (step (withAction (.wrRxt []) ackState))).map (fun t => decide (t.rxt ≠ ackState.rxt)) = some true ∧
    (nextOf (step (withCommand 0x7 busyLines ackState))).map (fun t => decide (t.tx ≠ ackState.tx ∧ t.res ≠ ackState.res)) =
      some true ∧
    (nextOf (step (withCommand 0x2 busyLines ackState))).map (fun t => decide (t.pos ≠ ackState.pos)) = some true ∧
    (nextOf (step (withAction .rdTx ackState))).map (fun t => decide (t.reply ≠ ackState.reply)) = some true := by decide

/-- A state of the invariant with a valid message, a whole frame in `TX` and a step that answers a state. -/
theorem witness_StepKeepsTheInvariant :
    let s := withCommand 0x9 busyLines (ackState.setTx ackBytes)
    s.Inv ∧ (nextOf (step s)).isSome = true := by decide

theorem witness_NoStepFaults :
    step (withAction (.wrRxh (zeros 74)) .reset) = .refused .hostWriteTooLong := rfl

theorem witness_EveryCommandCompletesAndWritesRes :
    (withCommand 0xF {} .reset).port = [.command { code := 0xF, ops := {} }] := rfl

/-- A command for each of the six failures. -/
theorem witness_StatusIsRaisedOnlyByItsCommands :
    [withCommand 2 {} .reset, withCommand 2 {} (rxState (dataBytes 13 0 0)), withCommand 2 {} (rxState (dataBytes 0 1 0)),
      withCommand 2 {} (rxState unknownBytes), withCommand 3 { role := 3 } .reset, withCommand 8 {} .reset].map
        (fun s => (nextOf (step s)).map (·.res.status)) =
      [some .truncated, some .invalidLength, some .lengthMismatch, some .unsupportedOpcode, some .encodeReject,
       some .badCommand] := by decide

theorem witness_ValidMessageAndFilledTxComeFromSuccess :
    (let s := withCommand 2 {} (rxState ackBytes)
     s.msg.valid = false ∧ (nextOf (step s)).map (·.msg.valid) = some true) ∧
    (let s := withCommand 2 {} ((rxState unknownBytes).setMsg ackMessage)
     s.msg.valid = true ∧ (nextOf (step s)).map (·.msg.valid) = some false) ∧
    (nextOf (step (withCommand 7 {} ackState))).map (·.res.status) = some .ok ∧
    (nextOf (step (withCommand 1 { var := 5 } ackState))).map (·.res.status) = some .encodeReject ∧
    (ackState.tx = [] ∧ (nextOf (step (withCommand 7 {} ackState))).map (fun t => t.tx.length) = some 23) ∧
    (let s := ackState.setTx ackBytes
     s.tx ≠ [] ∧ (nextOf (step (withCommand 3 { role := 3 } s))).map (·.tx) = some []) := by decide

/-- `TX` holds 23 bytes, `RXT` 7: both writes fit at every split, the last one at `k = 23` too. -/
theorem witness_PseudoInstructionsExpand :
    let s := ackState.setTx ackBytes
    ((ackBytes.take 16).length + s.rxt.length ≤ s.params.maxFrame ∧ ackBytes.length ≤ s.params.maxFrame) ∧
    (∀ k ∈ [0, 16, 23], k ≤ s.tx.length ∧ k + s.rxt.length ≤ s.params.maxFrame) ∧
    ((s.tx.take 16).length + s.rxt.length ≤ s.params.maxFrame ∧ s.tx.length ≤ s.params.maxFrame) := by decide

/-- R82: the read comes first, then the two writes of what it returns. -/
theorem test_loopback_expands :
    ((State.reset.setTx [1, 2, 3]).loopbackAtActions 1) = [.rdTx, .wrRxh [1], .wrRxt [2, 3]] ∧
    ((State.reset.setTx ackBytes).loopbackActions) =
      [.rdTx, .wrRxh ([0x05, 0x10, 0x01, 0x2C, 0x03, 0xE8, 0x00, 0x40] ++ zeros 8), .wrRxt tail7] := by decide

end Sys2Proof.Tests
end

/-! SUPPORT. Proofs of the statements about the state: what one host action can do, and from it the invariant, the
writers of each item and the raisers of each status; and that PARSE depends on its frame alone (10_state.md). -/

namespace Sys2Proof.Machine

/-! ### What one host action can do -/

/-- What a presented command answers is one of the effects of `CommandEffect`. -/
theorem runCommand_next {w : CommandWord} {s t : State} (h : runCommand w s = .next t) :
    CommandEffect w.code s t := by
  obtain ⟨t', ht', he⟩ := runCommand_effect w s
  rw [ht'] at h
  cases h
  exact he

/-- Everything a host action that answers a state can do to the block (20_memory.md R41, R44;
70_reset_and_hazards.md R190). -/
inductive ActionEffect (s : State) : HostAction → State → Prop where
  | command (w : CommandWord) (t : State) (he : CommandEffect w.code s t) : ActionEffect s (.command w) t
  | wrRxh (b : Bytes) (hb : b.length + s.rxt.length ≤ s.params.maxFrame) :
      ActionEffect s (.wrRxh b) ((s.setRxh b).setMsg .invalid)
  | wrRxt (b : Bytes) (hb : s.rxh.length + b.length ≤ s.params.maxFrame) :
      ActionEffect s (.wrRxt b) ((s.setRxt b).setMsg .invalid)
  | read (a : HostAction) (r : Reply) (ha : a = .rdTx ∨ a = .rdMsg ∨ a = .rdRes) : ActionEffect s a (s.setReply r)
  | reset : ActionEffect s .reset { State.reset with params := s.params, port := s.port, reply := s.reply }

/-- Every host action that answers a state has one of these effects. -/
theorem runAction_next {a : HostAction} {s t : State} (h : runAction a s = .next t) : ActionEffect s a t := by
  cases a with
  | command w => exact .command w t (runCommand_next h)
  | wrRxh b =>
    obtain ⟨hb, rfl⟩ := writeRxh_next h
    exact .wrRxh b hb
  | wrRxt b =>
    obtain ⟨hb, rfl⟩ := writeRxt_next h
    exact .wrRxt b hb
  | rdTx => cases h; exact .read _ _ (.inl rfl)
  | rdMsg => cases h; exact .read _ _ (.inr (.inl rfl))
  | rdRes => cases h; exact .read _ _ (.inr (.inr rfl))
  | reset => cases h; exact .reset

/-- A step that finds an action on the port has one of that action's effects, once the action has left the port. -/
theorem step_next {s t : State} {a : HostAction} {rest : List HostAction} (hp : s.port = a :: rest)
    (h : step s = .next t) : ActionEffect (s.setPort rest) a t :=
  runAction_next (step_cons hp ▸ h)

/-! ### The invariant (R24, R11, R12, R14, R20, R181) -/

theorem hasWindow_iff (v : Variant) : hasWindow v = true ↔ v = .ack ∨ v = .keepalive := by
  cases v <;> decide

theorem Message.invalid_inv : Message.invalid.Inv := ⟨nofun, fun _ => rfl⟩

theorem Message.DecodedInv.inv {m : Message} (hv : m.valid = true) (h : m.DecodedInv) : m.Inv :=
  ⟨fun _ => h, fun hf => absurd (hv.symm.trans hf) (by decide)⟩

/-- EXT_SEQ lifts the 16-bit bound of `seq`, and no other clause speaks of the two fields it writes (R18, R24). -/
theorem Message.DecodedInv.extSeq {m : Message} (h : m.DecodedInv) (l : U64) :
    { m with seq := l, seqExt := true : Message }.DecodedInv := by
  obtain ⟨hlen, hd1, hother, htail, -, hrest⟩ := h
  exact ⟨hlen, hd1, hother, htail, nofun, hrest⟩

/-- EXT_WS on an ACK or a KEEPALIVE keeps a decoded message: the clauses on `window_start` of the other variants do not
speak of it (R22, R24). -/
theorem Message.DecodedInv.extWs {m : Message} (h : m.DecodedInv) (hw : hasWindow m.variant = true) (l : U64) :
    { m with windowStart := l, wsExt := true : Message }.DecodedInv := by
  obtain ⟨hlen, hd1, hother, htail, hseq, -, -, hrole, hsyn, -, hfin⟩ := h
  have hv := (hasWindow_iff m.variant).1 hw
  exact ⟨hlen, hd1, hother, htail, hseq, nofun, fun _ => hv, hrole, hsyn,
    fun ha hk => absurd hv (not_or.2 ⟨ha, hk⟩), hfin⟩

/-- The clauses of the buffers in numbers. -/
theorem State.bufferInv_iff (s : State) :
    s.BufferInv ↔ s.params.Legal ∧ s.rxh.length + s.rxt.length ≤ s.params.maxFrame ∧
      s.tx.length ≤ s.params.maxFrame ∧ (s.tx = [] ∨ 23 ≤ s.tx.length) ∧
      s.msg.data2.length ≤ s.params.maxData2 :=
  and_congr_right fun _ => by rw [Memory.wf_iff, and_assoc]

/-- The frame under decode fits `MAX_FRAME`. -/
theorem State.BufferInv.rx_length_le {s : State} (h : s.BufferInv) : s.rx.length ≤ s.params.maxFrame := by
  obtain ⟨-, hrx, -⟩ := s.bufferInv_iff.1 h
  simpa [State.rx] using hrx

/-- A new message whose `data2` fits keeps the clauses of the buffers. -/
theorem State.BufferInv.setMsg {s : State} (h : s.BufferInv) {m : Message}
    (hm : m.data2.length ≤ s.params.maxData2) : (s.setMsg m).BufferInv := by
  obtain ⟨hl, hwf, htx, -⟩ := h
  exact ⟨hl, hwf, htx, hm⟩

/-- A new `TX` that is empty or a whole frame within `MAX_FRAME` keeps the clauses of the buffers. -/
theorem State.BufferInv.setTx {s : State} (h : s.BufferInv) {b : Bytes} (hb : b.length ≤ s.params.maxFrame)
    (hh : b = [] ∨ 23 ≤ b.length) : (s.setTx b).BufferInv := by
  obtain ⟨hl, hrx, -, -, hd⟩ := s.bufferInv_iff.1 h
  exact (s.setTx b).bufferInv_iff.2 ⟨hl, hrx, hb, hh, hd⟩

/-- The invalid message may replace any other. -/
theorem State.Inv.setInvalid {s : State} (h : s.BufferInv) : (s.setMsg .invalid).Inv :=
  ⟨Message.invalid_inv, h.setMsg (Nat.zero_le _)⟩

/-- Every command keeps the invariant; `RES` and the cursor are not spoken of by it. -/
theorem CommandEffect.inv {c : BitVec 4} {s t : State} (h : CommandEffect c s t) (hi : s.Inv) : t.Inv := by
  obtain ⟨hm, hb⟩ := hi
  cases h with
  | parseOk m k hc hdec hv hd h23 hk =>
    have hfit : m.data2.length ≤ s.params.maxData2 := hd ▸ Nat.sub_le_sub_right hb.rx_length_le 23
    exact ⟨hdec.inv hv, hb.setMsg hfit⟩
  | parseBad e k hc => exact State.Inv.setInvalid (s := (s.setPos k).setRes _) hb
  | encOk v cid seq d1 d2 h1 h2 hc =>
    have hlen := encodeFrame_length s.params v cid seq d2 h1
    have hfit : 23 + d2.length ≤ s.params.maxFrame := by
      obtain ⟨⟨-, -, h23, -⟩, -⟩ := hb
      rw [Params.maxData2] at h2
      omega
    exact ⟨hm, hb.setTx (hlen ▸ hfit) (.inr (hlen ▸ Nat.le_add_right _ _))⟩
  | encBad e hc => exact ⟨hm, hb.setTx (Nat.zero_le _) (.inl rfl)⟩
  | extSeq l hc hv => exact ⟨((hm.1 hv).extSeq l).inv hv, hb⟩
  | extWs l hc hv hw => exact ⟨((hm.1 hv).extWs hw l).inv hv, hb⟩
  | bad e hc => exact ⟨hm, hb⟩

/-- Every host action keeps the invariant. -/
theorem ActionEffect.inv {a : HostAction} {s t : State} (h : ActionEffect s a t) (hi : s.Inv) : t.Inv := by
  cases h with
  | command w _ he => exact he.inv hi
  | wrRxh b hle =>
    obtain ⟨hl, -, htx⟩ := s.bufferInv_iff.1 hi.2
    exact State.Inv.setInvalid ((s.setRxh b).bufferInv_iff.2 ⟨hl, hle, htx⟩)
  | wrRxt b hle =>
    obtain ⟨hl, -, htx⟩ := s.bufferInv_iff.1 hi.2
    exact State.Inv.setInvalid ((s.setRxt b).bufferInv_iff.2 ⟨hl, hle, htx⟩)
  | read a r ha => exact hi
  | reset =>
    refine ⟨Message.invalid_inv, (State.bufferInv_iff _).2 ⟨hi.2.1, ?_⟩⟩
    simp [State.reset, Message.invalid]

/-- Settles O43: each effect of a host action keeps the invariant, and the idle step changes nothing. -/
theorem stepKeepsTheInvariant : Obligations.StepKeepsTheInvariant := by
  intro s t hi h
  cases hp : s.port with
  | nil =>
    simp only [step, hp] at h
    cases h
    exact hi
  | cons a rest => exact (step_next hp h).inv hi

/-- Settles O4: the reset state is one closed term. -/
theorem resetMeetsTheInvariant : Obligations.ResetMeetsTheInvariant := by
  unfold Obligations.ResetMeetsTheInvariant
  exact ⟨Message.invalid_inv, by decide⟩

/-! ### PARSE depends on the frame alone (R13) -/

/-- Two operations both answer a state, with the same `MSG`, the same `RES` and the same cursor. -/
def SameResult (o o' : Out) : Prop :=
  ∃ t t', o = .next t ∧ o' = .next t' ∧ t.msg = t'.msg ∧ t.res = t'.res ∧ t.pos = t'.pos

/-- A parse failure leaves the invalid message and its own `RES`, whatever the state was. -/
theorem sameResult_raise_parse (c : BitVec 4) (e : ParseFailure) (k : Nat) (s s' : State) :
    SameResult (raise c (.parse e) (s.setPos k)) (raise c (.parse e) (s'.setPos k)) :=
  ⟨_, _, rfl, rfl, rfl, rfl, rfl⟩

theorem sameResult_receive (f : Frame) (built : Built) (s s' : State) :
    SameResult (receive f built s) (receive f built s') := by
  cases built with
  | inl m => exact ⟨_, _, rfl, rfl, rfl, rfl, rfl⟩
  | inr e => exact sameResult_raise_parse 0x2 e _ s s'

/-- A received frame's result depends on the frame and, for the role bytes of a SYN, on the parameters. -/
theorem sameResult_dispatchFrame (f : Frame) (v : Variant) {s s' : State} (hp : s.params = s'.params) :
    SameResult (dispatchFrame f s v) (dispatchFrame f s' v) := by
  cases v with
  | syn =>
    simp only [dispatchFrame, execSyn, hp]
    exact sameResult_receive ..
  | ack =>
    simp only [dispatchFrame, execAck]
    exact sameResult_receive ..
  | keepalive =>
    simp only [dispatchFrame, execKeepalive]
    exact sameResult_receive ..
  | data =>
    simp only [dispatchFrame, execData]
    split
    · exact sameResult_raise_parse ..
    · exact sameResult_receive ..
  | fin =>
    simp only [dispatchFrame, execFin]
    exact sameResult_receive ..

/-- Each branch of PARSE is chosen by the frame and the parameters, and ends alike in both states. -/
theorem sameResult_execParse {s s' : State} (hrx : s.rx = s'.rx) (hp : s.params = s'.params) :
    SameResult (execParse s) (execParse s') := by
  rw [execParse_eq, execParse_eq, hrx, hp]
  split
  · exact sameResult_raise_parse ..
  split
  · exact sameResult_raise_parse ..
  split
  · split
    · exact sameResult_raise_parse ..
    · exact sameResult_dispatchFrame _ _ hp
  · exact sameResult_raise_parse ..

/-- Settles O18, by PARSE's equation without the cursor, in which the state occurs as its frame and its parameters. -/
theorem parseDependsOnTheFrameAlone : Obligations.ParseDependsOnTheFrameAlone :=
  fun _ _ hrx hp => sameResult_execParse hrx hp

/-! ### Who writes each item, and who raises each status (R10 to R15, R26, R27) -/

/-- What a command leaves unchanged, and the command codes that write each other item. -/
theorem CommandEffect.frame {c : BitVec 4} {s t : State} (h : CommandEffect c s t) :
    t.rxh = s.rxh ∧ t.rxt = s.rxt ∧ (t.tx ≠ s.tx → c.toNat ∈ [1, 3, 4, 5, 6, 7]) ∧
    (t.msg ≠ s.msg → c.toNat ∈ [2, 8, 9]) ∧ (t.pos ≠ s.pos → c.toNat = 2) ∧
    t.params = s.params ∧ t.port = s.port ∧ t.reply = s.reply := by
  cases h with
  | parseOk m k hc => subst hc; simp
  | parseBad e k hc => subst hc; simp
  | encOk v cid seq d1 d2 h1 h2 hc => exact ⟨rfl, rfl, fun _ => hc, nofun, nofun, rfl, rfl, rfl⟩
  | encBad e hc => exact ⟨rfl, rfl, fun _ => hc, nofun, nofun, rfl, rfl, rfl⟩
  | extSeq l hc => subst hc; simp
  | extWs l hc => subst hc; simp
  | bad e hc => simp

/-- Settles O42: a command by its frame, the other actions by the one update each of them is. -/
theorem onlyTheirActionsWriteEachItem : Obligations.OnlyTheirActionsWriteEachItem := by
  intro s t a rest hp h
  cases step_next hp h with
  | command w _ he =>
    obtain ⟨hrxh, hrxt, htx, hmsg, hpos, hparams, hport, hreply⟩ := he.frame
    exact ⟨fun hne => absurd hrxh hne, fun hne => absurd hrxt hne, fun hne => .inr ⟨w, rfl, htx hne⟩,
      fun hne => .inr (.inr ⟨w, rfl, hmsg hne⟩), fun _ => .inr ⟨w, rfl⟩, fun hne => .inr ⟨w, rfl, hpos hne⟩,
      fun hne => absurd hreply hne, hparams, hport⟩
  | wrRxh b hb => simp
  | wrRxt b hb => simp
  | read a r ha => simp [ha]
  | reset => simp

/-- The status a command records, by its code: a parse failure is PARSE's, an `EncodeReject` an ENC command's, a
`BadCommand` an extend command's or an undefined code's (R27, R160). -/
theorem CommandEffect.status {c : BitVec 4} {s t : State} (h : CommandEffect c s t) :
    t.res.status = .ok ∨
    (c.toNat = 2 ∧ t.res.status ∈ [Status.truncated, .invalidLength, .lengthMismatch, .unsupportedOpcode]) ∨
    (c.toNat ∈ [1, 3, 4, 5, 6, 7] ∧ t.res.status = .encodeReject) ∨
    (c.toNat ∈ [0, 8, 9, 10, 11, 12, 13, 14, 15] ∧ t.res.status = .badCommand) := by
  cases h with
  | parseOk => exact .inl rfl
  | parseBad e k hc =>
    subst hc
    exact .inr (.inl ⟨rfl, by cases e <;> simp [Failure.status]⟩)
  | encOk => exact .inl rfl
  | encBad e hc => exact .inr (.inr (.inl ⟨hc, rfl⟩))
  | extSeq => exact .inl rfl
  | extWs => exact .inl rfl
  | bad e hc => exact .inr (.inr (.inr ⟨hc, rfl⟩))

theorem Status.code_ne_seven (x : Status) : x.code.toNat ≠ 7 := by cases x <;> decide

/-- Settles O46, by the status each kind of command effect records. -/
theorem statusIsRaisedOnlyByItsCommands : Obligations.StatusIsRaisedOnlyByItsCommands := by
  refine ⟨by decide, fun s t w rest hp h => ?_⟩
  cases step_next hp h with
  | command _ _ he =>
    have hseven := t.res.status.code_ne_seven
    rcases he.status with hok | ⟨hc, hs⟩ | ⟨hc, hs⟩ | ⟨hc, hs⟩
    · simp [hok, Status.code]
    · refine ⟨fun _ => hc, ?_, ?_, hseven⟩ <;> intro he' <;> simp [he'] at hs
    · exact ⟨by simp [hs], fun _ => hc, by simp [hs], hseven⟩
    · exact ⟨by simp [hs], by simp [hs], fun _ => hc, hseven⟩
  | read _ _ ha => simp at ha

/-! ### Reset values (R32) -/

/-- PARSE either leaves a valid decoded message and status OK, or the invalid message and a failure's status
(R110, R166). -/
theorem exec_parse_next {s t : State} (h : exec .parse s = .next t) :
    (t.msg.valid = true ∧ t.msg.DecodedInv ∧ t.res.status = .ok) ∨
    (t.msg = .invalid ∧ t.res.status ≠ .ok) := by
  have he : CommandEffect 2 s t := runCommand_next (w := { code := 2, ops := {} }) h
  cases he with
  | parseOk m k hc hm hv => exact .inl ⟨hv, hm, rfl⟩
  | parseBad e k => exact .inr ⟨rfl, Failure.status_ne_ok _⟩
  | encOk v cid seq d1 d2 h1 h2 hc => exact absurd hc (by decide)
  | encBad e hc => exact absurd hc (by decide)
  | extSeq l hc => exact absurd hc (by decide)
  | extWs l hc => exact absurd hc (by decide)
  | bad e hc => exact absurd hc (by decide)

/-- Settles O1: the table by evaluation, and the clauses on PARSE and the host writes by what each of them leaves. -/
theorem resetLeavesEveryItemAtItsValue : Obligations.ResetLeavesEveryItemAtItsValue := by
  refine ⟨by decide, by decide, by decide, fun s t h hbad => ?_, fun b s t h => ?_, fun s t h hv hsyn => ?_⟩
  · rcases exec_parse_next h with ⟨-, -, hok⟩ | ⟨hm, -⟩
    · exact absurd hok hbad
    · exact hm
  · rcases h with h | h
    · obtain ⟨-, rfl⟩ := writeRxh_next h
      rfl
    · obtain ⟨-, rfl⟩ := writeRxt_next h
      rfl
  · rcases exec_parse_next h with ⟨-, ⟨-, -, hd1len, -⟩, -⟩ | ⟨hm, -⟩
    · exact hd1len (by simp [hsyn])
    · rw [hm] at hv
      exact absurd hv (by decide)

/-! ### No command reads `RES` (R31, R172) -/

theorem done_setRes (c : BitVec 4) (r : Res) (s : State) : done c (s.setRes r) = done c s := rfl

theorem raise_setRes (c : BitVec 4) (e : Failure) (r : Res) (s : State) :
    raise c e (s.setRes r) = raise c e s := by
  cases e <;> rfl

theorem receive_setRes (f : Frame) (built : Built) (r : Res) (s : State) :
    receive f built (s.setRes r) = receive f built s := by
  cases built <;> rfl

theorem emit_setRes (c : BitVec 4) (v : Variant) (cid : Byte) (seq : U64) (d1 d2 : Bytes) (r : Res) (s : State) :
    emit c v cid seq d1 d2 (s.setRes r) = emit c v cid seq d1 d2 s := by
  rfl

theorem setPos_setRes (k : Nat) (r : Res) (s : State) : (s.setRes r).setPos k = (s.setPos k).setRes r := rfl

theorem dispatchFrame_setRes (f : Frame) (v : Variant) (r : Res) (s : State) :
    dispatchFrame f (s.setRes r) v = dispatchFrame f s v := by
  cases v with
  | data => simp only [dispatchFrame, execData, setPos_setRes, raise_setRes, receive_setRes]
  | syn => simp only [dispatchFrame, execSyn, params_setRes, receive_setRes]
  | ack => simp only [dispatchFrame, execAck, receive_setRes]
  | keepalive => simp only [dispatchFrame, execKeepalive, receive_setRes]
  | fin => simp only [dispatchFrame, execFin, receive_setRes]

theorem execParse_setRes (r : Res) (s : State) : execParse (s.setRes r) = execParse s := by
  simp only [execParse_eq, rx_setRes, params_setRes, setPos_setRes, raise_setRes, dispatchFrame_setRes]

theorem execEncRaw_setRes (var : BitVec 3) (cid : Byte) (seq : U64) (d1 d2 : Bytes) (r : Res) (s : State) :
    execEncRaw var cid seq d1 d2 (s.setRes r) = execEncRaw var cid seq d1 d2 s := by
  simp only [execEncRaw, params_setRes, raise_setRes, emit_setRes]

theorem execEncSyn_setRes (cid : Byte) (seq : U64) (scid : Byte) (ver : U16) (role : BitVec 2) (r : Res) (s : State) :
    execEncSyn cid seq scid ver role (s.setRes r) = execEncSyn cid seq scid ver role s := by
  simp only [execEncSyn, params_setRes, raise_setRes, emit_setRes]

theorem execEncData_setRes (cid : Byte) (seq : U64) (chunk : Bytes) (r : Res) (s : State) :
    execEncData cid seq chunk (s.setRes r) = execEncData cid seq chunk s := by
  simp only [execEncData, params_setRes, raise_setRes, emit_setRes]

theorem execExtSeq_setRes (l : U64) (r : Res) (s : State) : execExtSeq l (s.setRes r) = execExtSeq l s := by
  simp only [execExtSeq, msg_setRes, raise_setRes]
  rfl

theorem execExtWs_setRes (l : U64) (r : Res) (s : State) : execExtWs l (s.setRes r) = execExtWs l s := by
  simp only [execExtWs, msg_setRes, raise_setRes]
  rfl

/-- Settles O48: every instruction ends by overwriting `RES`, and tests nothing of it before. -/
theorem noCommandReadsRes : Obligations.NoCommandReadsRes := by
  intro i s r
  cases i with
  | syn f => exact dispatchFrame_setRes f .syn r s
  | ack f => exact dispatchFrame_setRes f .ack r s
  | keepalive f => exact dispatchFrame_setRes f .keepalive r s
  | data f => exact dispatchFrame_setRes f .data r s
  | fin f => exact dispatchFrame_setRes f .fin r s
  | encRaw var cid seq d1 d2 => exact execEncRaw_setRes var cid seq d1 d2 r s
  | parse => exact execParse_setRes r s
  | encSyn cid seq scid ver role => exact execEncSyn_setRes cid seq scid ver role r s
  | encAck cid seq ws space => exact emit_setRes ..
  | encKeepalive cid ws space => exact emit_setRes ..
  | encData cid seq chunk => exact execEncData_setRes cid seq chunk r s
  | encFin cid seq reason => exact emit_setRes ..
  | extSeq logical => exact execExtSeq_setRes logical r s
  | extWs logical => exact execExtWs_setRes logical r s

end Sys2Proof.Machine

/-! SUPPORT. Proofs of the statements about the memory and the host's accesses: what one step of each host action
answers, that no step faults, and what the buffer accesses do at each offset (20_memory.md). -/

namespace Sys2Proof.Machine

/-! ### The host writes (R41) -/

theorem writeRxh_of_le {b : Bytes} {s : State} (h : b.length + s.rxt.length ≤ s.params.maxFrame) :
    writeRxh b s = .next ((s.setRxh b).setMsg .invalid) := if_pos h

theorem writeRxh_of_lt {b : Bytes} {s : State} (h : s.params.maxFrame < b.length + s.rxt.length) :
    writeRxh b s = .refused .hostWriteTooLong := if_neg (Nat.not_le.mpr h)

theorem writeRxt_of_le {b : Bytes} {s : State} (h : s.rxh.length + b.length ≤ s.params.maxFrame) :
    writeRxt b s = .next ((s.setRxt b).setMsg .invalid) := if_pos h

theorem writeRxt_of_lt {b : Bytes} {s : State} (h : s.params.maxFrame < s.rxh.length + b.length) :
    writeRxt b s = .refused .hostWriteTooLong := if_neg (Nat.not_le.mpr h)

/-- Settles O39: the step is the write, and the write tests the one bound. -/
theorem hostWritesReplaceAndInvalidate : Obligations.HostWritesReplaceAndInvalidate := by
  intro s b rest
  refine ⟨fun hp => ?_, fun hp => ?_⟩
  · rw [step_cons hp]
    exact ⟨writeRxh_of_le (s := s.setPort rest), writeRxh_of_lt (s := s.setPort rest)⟩
  · rw [step_cons hp]
    exact ⟨writeRxt_of_le (s := s.setPort rest), writeRxt_of_lt (s := s.setPort rest)⟩

/-! ### No step faults (R41, R42, R109, R201) -/

/-- The host write that R41 refuses: the two buffers would exceed `MAX_FRAME`. -/
def HostAction.TooLong (s : State) (a : HostAction) : Prop :=
  ∃ b, (a = .wrRxh b ∧ s.params.maxFrame < b.length + s.rxt.length) ∨
    (a = .wrRxt b ∧ s.params.maxFrame < s.rxh.length + b.length)

/-- A host action answers a state, or it is a host write that does not fit and is refused. -/
theorem runAction_next_or_refused (a : HostAction) (s : State) :
    (∃ t, runAction a s = .next t) ∨ (runAction a s = .refused .hostWriteTooLong ∧ a.TooLong s) := by
  cases a with
  | command w =>
    obtain ⟨t, ht, -⟩ := runCommand_effect w s
    exact .inl ⟨t, ht⟩
  | wrRxh b =>
    rcases Nat.lt_or_ge s.params.maxFrame (b.length + s.rxt.length) with hlt | hle
    · exact .inr ⟨writeRxh_of_lt hlt, b, .inl ⟨rfl, hlt⟩⟩
    · exact .inl ⟨_, writeRxh_of_le hle⟩
  | wrRxt b =>
    rcases Nat.lt_or_ge s.params.maxFrame (s.rxh.length + b.length) with hlt | hle
    · exact .inr ⟨writeRxt_of_lt hlt, b, .inr ⟨rfl, hlt⟩⟩
    · exact .inl ⟨_, writeRxt_of_le hle⟩
  | rdTx => exact .inl ⟨_, rfl⟩
  | rdMsg => exact .inl ⟨_, rfl⟩
  | rdRes => exact .inl ⟨_, rfl⟩
  | reset => exact .inl ⟨_, rfl⟩

/-- With no action to come the block stays as it is (log entry 2). -/
theorem step_nil {s : State} (h : s.port = []) : step s = .next s := by
  simp [step, h]

/-- A step answers a state, or its action is a host write that does not fit and is refused. -/
theorem step_next_or_refused (s : State) :
    (∃ t, step s = .next t) ∨
      (step s = .refused .hostWriteTooLong ∧ ∃ a rest, s.port = a :: rest ∧ a.TooLong s) := by
  cases hp : s.port with
  | nil => exact .inl ⟨s, step_nil hp⟩
  | cons a rest =>
    rw [step_cons hp]
    rcases runAction_next_or_refused a (s.setPort rest) with hnext | ⟨href, hlong⟩
    · exact .inl hnext
    · exact .inr ⟨href, a, rest, rfl, hlong⟩

/-- Settles O44: of the three outcomes a step has only the next state and the one refusal. -/
theorem noStepFaults : Obligations.NoStepFaults := by
  intro s
  rcases step_next_or_refused s with ⟨t, hnext⟩ | ⟨href, a, rest, hp, b, hlong⟩
  · rw [hnext]
    exact ⟨nofun, nofun⟩
  · rw [href]
    refine ⟨nofun, fun r hr => ?_⟩
    cases hr
    refine ⟨rfl, b, rest, ?_⟩
    rcases hlong with ⟨rfl, hlt⟩ | ⟨rfl, hlt⟩
    · exact .inl ⟨hp, hlt⟩
    · exact .inr ⟨hp, hlt⟩

/-! ### A step runs its command, and the host reads (R25, R44, R52, R78) -/

/-- Settles O5: the step is the command, and the command is the instruction it decodes to. -/
theorem stepRunsTheDecodedCommand : Obligations.StepRunsTheDecodedCommand := by
  refine ⟨fun s w rest i hp hd => ?_, fun s => step_nil⟩
  rw [step_cons hp]
  simp only [runAction, runCommand, hd]

/-- Settles O40: each step is its read, which writes the reply only. -/
theorem hostReadsReturnTheItems : Obligations.HostReadsReturnTheItems :=
  fun _ _ => ⟨fun hp => step_cons hp, fun hp => step_cons hp, fun hp => step_cons hp⟩

/-! ### Buffer accesses at each offset (R40, R42, R43) -/

/-- The bytes of two buffers read as one: those of the first, then those of the second. -/
theorem byteAt_append (a b : Bytes) (k : Nat) :
    byteAt (a ++ b) k = if k < a.length then byteAt a k else byteAt b (k - a.length) :=
  List.getElem?_append

theorem byteAt_slice (b : Bytes) (off : Nat) {k j : Nat} (h : j < k) :
    byteAt (slice b off k) j = byteAt b (off + j) := by
  simp only [byteAt, slice, List.getElem?_take_of_lt h, List.getElem?_drop]

/-- Below the written offsets a write leaves every byte as before. -/
theorem byteAt_memWrite_before {b w : Bytes} {off a : Nat} (hin : off ≤ b.length) (h : a < off) :
    byteAt (memWrite b off w) a = byteAt b a := by
  have htake : a < (b.take off).length := by simpa [Nat.min_eq_left hin] using h
  rw [memWrite, List.append_assoc, byteAt_append, if_pos htake]
  exact List.getElem?_take_of_lt h

/-- From the written offset on the buffer holds the written bytes, then the old ones past them. -/
theorem byteAt_memWrite_add {b w : Bytes} {off : Nat} (hin : off ≤ b.length) (j : Nat) :
    byteAt (memWrite b off w) (off + j) = if j < w.length then byteAt w j else byteAt b (off + j) := by
  have hlen : (b.take off).length = off := List.length_take_of_le hin
  rw [memWrite, List.append_assoc, byteAt_append, hlen, if_neg (by omega), Nat.add_sub_cancel_left,
    byteAt_append]
  split
  · rfl
  · rw [byteAt, List.getElem?_drop, byteAt]
    congr 1
    omega

/-- Settles O41: `RX` is an append, a read inside the buffer is a slice, and a write is known before its offset and
from it on. -/
theorem bufferAccesses : Obligations.BufferAccesses := by
  refine ⟨fun s k => byteAt_append s.rxh s.rxt k, fun b off k h => ?_,
    fun b w off h => ⟨fun j hj => ?_, fun a ha => ?_⟩⟩
  · exact ⟨slice b off k, memRead_of_le h, slice_length_of_le h, fun j hj => byteAt_slice b off hj⟩
  · rw [byteAt_memWrite_add (by omega), if_pos hj]
  · rcases ha with hbefore | hafter
    · exact byteAt_memWrite_before (by omega) hbefore
    · obtain ⟨j, rfl⟩ := Nat.exists_eq_add_of_le hafter
      rw [Nat.add_assoc, byteAt_memWrite_add (by omega), if_neg (by omega)]

end Sys2Proof.Machine

/-! SUPPORT. Proofs of the statements about the encoding: the decoder and the encoder are inverse to one another on
frames and commands, what the undefined codes do, and what the pseudo-instructions abbreviate (30_encoding.md). -/

namespace Sys2Proof

/-! ### Bytes and slices -/

theorem toBe16_be16 {b : Bytes} (h : b.length = 2) : toBe16 (be16 b) = b := by
  obtain ⟨x, y, rfl⟩ := List.length_eq_two.mp h
  rw [toBe16_eq, be16_toNat]
  simp only [List.getD_cons_zero, List.getD_cons_succ, List.cons.injEq, and_true]
  constructor <;> apply BitVec.eq_of_toNat_eq <;> simp <;> omega

theorem toLe32_le32 {b : Bytes} (h : b.length = 4) : toLe32 (le32 b) = b := by
  obtain ⟨x, y, z, w, rfl⟩ := List.length_eq_four.mp h
  simp only [toLe32, List.cons.injEq, and_true]
  refine ⟨?_, ?_, ?_, ?_⟩ <;> apply BitVec.eq_of_toNat_eq <;>
    simp [le32_toNat, BitVec.extractLsb'_toNat, Nat.shiftRight_eq_div_pow] <;> omega

theorem slice_append_drop (b : Bytes) (off k : Nat) : slice b off k ++ b.drop (off + k) = b.drop off := by
  rw [← List.drop_drop, slice, List.take_append_drop]

/-- The slice at the place of the middle one of three parts is that part. -/
theorem slice_append_middle {a b : Bytes} (c : Bytes) {off k : Nat} (ha : a.length = off) (hb : b.length = k) :
    slice (a ++ (b ++ c)) off k = b := by
  rw [slice, List.drop_left' ha, List.take_left' hb]

/-! ### The regions of a frame's bytes (R61) -/

section regions
variable {f : Frame} (op : BitVec 4)

theorem frameBytes_opcodeByte : (frameBytes op f).getD 1 0 = packNibbles op f.nibble := rfl

variable (h1 : f.data1.length = 12) (hr : f.reserved.length = 3)
include h1

theorem slice_frameBytes_data1 : slice (frameBytes op f) 4 12 = f.data1 := by
  have hsplit : frameBytes op f = [f.connId, packNibbles op f.nibble] ++ toBe16 f.seq ++
      (f.data1 ++ (f.reserved ++ toLe32 (BitVec.ofNat 32 f.data2.length) ++ f.data2)) := by
    simp only [frameBytes, List.append_assoc]
  rw [hsplit]
  exact slice_append_middle _ rfl h1

include hr

theorem slice_frameBytes_reserved : slice (frameBytes op f) 16 3 = f.reserved := by
  rw [frameBytes, List.append_assoc, List.append_assoc (_ ++ f.data1)]
  exact slice_append_middle _ (by simp [h1]) hr

theorem slice_frameBytes_lengthField : slice (frameBytes op f) 19 4 = toLe32 (BitVec.ofNat 32 f.data2.length) := by
  rw [frameBytes, List.append_assoc]
  exact slice_append_middle _ (by simp [h1, hr]) rfl

theorem drop_frameBytes : (frameBytes op f).drop 23 = f.data2 :=
  List.drop_left' (by simp [h1, hr])

/-- The fields read from a frame's bytes are the frame's. -/
theorem frameFields_frameBytes : frameFields (frameBytes op f) = f := by
  have hnib : lowNibble ((frameBytes op f).getD 1 0) = f.nibble := lowNibble_packNibbles op f.nibble
  have hseq : be16 (slice (frameBytes op f) 2 2) = f.seq := be16_toBe16 f.seq
  rw [frameFields, hnib, hseq, slice_frameBytes_data1 op h1, slice_frameBytes_reserved op h1 hr,
    drop_frameBytes op h1 hr]
  rfl

end regions

/-- The bytes a frame's fields stand for are the ones they were read from, when the length field is right. -/
theorem frameBytes_frameFields {b : Bytes} (h23 : 23 ≤ b.length) (hl : (le32 (slice b 19 4)).toNat = b.length - 23) :
    frameBytes (highNibble (b.getD 1 0)) (frameFields b) = b := by
  have hhead : [b.getD 0 0, b.getD 1 0] ++ b.drop 2 = b := by
    obtain _ | ⟨x, _ | ⟨y, t⟩⟩ := b <;> simp at h23 ⊢
  have hseq : toBe16 (be16 (slice b 2 2)) = slice b 2 2 := toBe16_be16 (slice_length_of_le (by omega))
  have hlen : toLe32 (BitVec.ofNat 32 (b.drop 23).length) = slice b 19 4 := by
    rw [List.length_drop, ← hl, BitVec.ofNat_toNat, BitVec.setWidth_eq]
    exact toLe32_le32 (slice_length_of_le (by omega))
  calc frameBytes (highNibble (b.getD 1 0)) (frameFields b)
    _ = [b.getD 0 0, b.getD 1 0] ++ (slice b 2 2 ++ (slice b 4 12 ++ (slice b 16 3 ++
          (slice b 19 4 ++ b.drop 23)))) := by
      simp only [frameBytes, frameFields, packNibbles_nibbles, hseq, hlen, List.append_assoc]
    _ = b := by
      rw [slice_append_drop b 19 4, slice_append_drop b 16 3, slice_append_drop b 4 12, slice_append_drop b 2 2, hhead]

/-! ### The frame decoder (R61, R66, R170) -/

/-- The bytes that decode to an instruction, and the instruction: no check of R170 fails, and the opcode selects the
variant of the fields. -/
theorem decodeFrame_eq_instr_iff {p : Params} {b : Bytes} {i : Instr} :
    decodeFrame p b = .instr i ↔
      23 ≤ b.length ∧ (highNibble (b.getD 1 0) = p.opcData → (frameFields b).nibble.toNat ≤ 12) ∧
      (le32 (slice b 19 4)).toNat = b.length - 23 ∧
      ∃ v, p.variantOf (highNibble (b.getD 1 0)) = some v ∧ i = .ofFrame (frameFields b) v := by
  constructor
  · intro h
    simp only [decodeFrame] at h
    split at h
    · cases h
    split at h
    · cases h
    split at h
    · rename_i hshort hnib hlen
      split at h
      · cases h
      · rename_i v hv
        cases h
        exact ⟨Nat.not_lt.mp hshort, fun ho => Nat.not_lt.mp fun hlt => hnib ⟨ho, hlt⟩, hlen, v, hv, rfl⟩
    · cases h
  · rintro ⟨h23, hnib, hlen, v, hv, rfl⟩
    simp only [decodeFrame]
    rw [if_neg (Nat.not_lt.mpr h23), if_neg fun ⟨ho, hlt⟩ => Nat.not_lt.mpr (hnib ho) hlt, if_pos hlen, hv]

/-- Under legal parameters no two variants share an opcode (R6, R73). -/
theorem Params.opcode_injective {p : Params} (hp : p.Legal) : Function.Injective p.opcode := by
  intro v v' ho
  have hsel := Params.variantOf_opcode hp v
  rw [ho, Params.variantOf_opcode hp v'] at hsel
  exact (Option.some.inj hsel).symm

theorem encode_ofFrame (p : Params) (f : Frame) (v : Variant) :
    encode p (.ofFrame f v) = .frame (frameBytes (p.opcode v) f) := by
  cases v <;> rfl

/-- A frame instruction is well formed when its frame is and, for DATA, its nibble is a length of `data1`. -/
theorem wellFormed_ofFrame_iff (p : Params) (f : Frame) (v : Variant) :
    (Instr.ofFrame f v).wellFormed p = true ↔
      f.wellFormed p = true ∧ (v = .data → f.nibble.toNat ≤ 12) := by
  cases v <;> simp [Instr.ofFrame, Instr.wellFormed]

/-- A well-formed frame's bytes decode to its frame instruction. -/
theorem decodeFrame_frameBytes {p : Params} (hp : p.Legal) {f : Frame} {v : Variant}
    (h : (Instr.ofFrame f v).wellFormed p = true) :
    decodeFrame p (frameBytes (p.opcode v) f) = .instr (.ofFrame f v) := by
  obtain ⟨hf, hnib⟩ := (wellFormed_ofFrame_iff p f v).1 h
  obtain ⟨h1, hr, h2⟩ := (Frame.wellFormed_iff p f).1 hf
  have hlen : (frameBytes (p.opcode v) f).length = 23 + f.data2.length := by
    rw [frameBytes_length, h1, hr]
  have hfit : f.data2.length < 2 ^ 32 := by
    obtain ⟨-, -, -, hmax⟩ := hp
    rw [Params.maxData2] at h2
    omega
  rw [decodeFrame_eq_instr_iff, frameFields_frameBytes _ h1 hr, slice_frameBytes_lengthField _ h1 hr, hlen,
    frameBytes_opcodeByte, highNibble_packNibbles]
  refine ⟨by omega, fun ho => hnib (Params.opcode_injective hp ho), ?_, v, Params.variantOf_opcode hp v, rfl⟩
  rw [le32_toLe32, BitVec.toNat_ofNat, Nat.mod_eq_of_lt hfit, Nat.add_sub_cancel_left]

/-- Settles O9: a command's word decodes to it by its own line, and a frame instruction's word is its frame's bytes,
whose regions give the frame back. -/
theorem decodeOfEncodeIsIdentity : Obligations.DecodeOfEncodeIsIdentity := by
  intro p i hp hwf
  cases i with
  | syn f => exact decodeFrame_frameBytes (v := .syn) hp hwf
  | ack f => exact decodeFrame_frameBytes (v := .ack) hp hwf
  | keepalive f => exact decodeFrame_frameBytes (v := .keepalive) hp hwf
  | data f => exact decodeFrame_frameBytes (v := .data) hp hwf
  | fin f => exact decodeFrame_frameBytes (v := .fin) hp hwf
  | encRaw var cid seq d1 d2 => exact Laws.EncodedWord.encRaw var cid seq d1 d2 p
  | parse => exact Laws.EncodedWord.parse p
  | encSyn cid seq scid ver role => exact Laws.EncodedWord.encSyn cid seq scid ver role p
  | encAck cid seq ws space => exact Laws.EncodedWord.encAck cid seq ws space p
  | encKeepalive cid ws space => exact Laws.EncodedWord.encKeepalive cid ws space p
  | encData cid seq chunk => exact Laws.EncodedWord.encData cid seq chunk p
  | encFin cid seq reason => exact Laws.EncodedWord.encFin cid seq reason p
  | extSeq logical => exact Laws.EncodedWord.extSeq logical p
  | extWs logical => exact Laws.EncodedWord.extWs logical p

/-- Settles O10: the bytes of a frame's fields are the frame, whose checked nibble and length make them well formed. -/
theorem encodeOfDecodedFrameIsTheFrame : Obligations.EncodeOfDecodedFrameIsTheFrame := by
  intro p b i h
  obtain ⟨h23, hnib, hlen, v, hv, rfl⟩ := decodeFrame_eq_instr_iff.1 h
  have hop := Params.opcode_of_variantOf hv
  refine ⟨?_, fun hfit => (wellFormed_ofFrame_iff p _ v).2 ⟨(Frame.wellFormed_iff p _).2 ⟨?_, ?_, ?_⟩, ?_⟩⟩
  · rw [encode_ofFrame, hop, frameBytes_frameFields h23 hlen]
  · exact slice_length_of_le (by omega)
  · exact slice_length_of_le (by omega)
  · rw [Machine.frameFields_data2_length, Params.maxData2]
    omega
  · rintro rfl
    exact hnib hop.symm

/-! ### Written-out frames and the command codes (R61, R73, R78, R79, R83) -/

/-- Settles O8: each frame is one closed term. -/
theorem writtenOutFramesDecode : Obligations.WrittenOutFramesDecode :=
  ⟨rfl, rfl, rfl, rfl, rfl, rfl⟩

/-- The codes of R83 are exactly the ones that decode to no instruction. -/
theorem decodeCommand_eq_undefined_iff (c : BitVec 4) (o : Operands) :
    decodeCommand ⟨c, o⟩ = .reject (.undefinedCommand c) ↔ c = 0x0 ∨ 0xA ≤ c.toNat := by
  refine ⟨fun h => ?_, fun h => Machine.decodeCommand_undefined h o⟩
  simp only [decodeCommand] at h
  split at h
  case h_10 =>
    rw [← BitVec.toNat_inj, show (0 : BitVec 4).toNat = 0 from rfl]
    simp only [imp_false] at *
    omega
  all_goals cases h

/-- Settles O7: each defined code by its row, the others by the decoder's last row. -/
theorem commandCodesSelectTheirCommands : Obligations.CommandCodesSelectTheirCommands :=
  fun o => ⟨rfl, rfl, rfl, rfl, rfl, rfl, rfl, rfl, rfl, fun c => (decodeCommand_eq_undefined_iff c o).symm⟩

end Sys2Proof

namespace Sys2Proof.Machine

/-- Settles O6: the code decodes to no instruction, and the reject writes `RES` only. -/
theorem undefinedCodeIsBadCommand : Obligations.UndefinedCodeIsBadCommand := by
  intro s w rest hp hcode
  rw [step_cons hp]
  simp only [runAction, runCommand, decodeCommand_undefined hcode w.ops, execUndefined, raise_eq,
    afterFailure_badCommand]
  simp [Res.failure, Failure.status, Failure.word0, Failure.word1]

/-! ### The pseudo-instructions (R82) -/

/-- LOOPBACK `k` run in any state in which its two writes fit. -/
theorem core_run_loopbackAt {s : State} {k : Nat} (h1 : (s.tx.take k).length + s.rxt.length ≤ s.params.maxFrame)
    (h2 : s.tx.length ≤ s.params.maxFrame) :
    Sys2Proof.core.run 3 (s.issue (s.loopbackAtActions k)) =
      .next ((((s.setReply (.tx s.tx)).setRxh (s.tx.take k)).setRxt (s.tx.drop k)).setMsg State.reset.msg) := by
  have hread : step (s.issue (s.loopbackAtActions k)) =
      .next ((s.setReply (.tx s.tx)).setPort ([.wrRxh (s.tx.take k), .wrRxt (s.tx.drop k)] ++ s.port)) := by
    rw [step_cons (port_issue ..)]
    rfl
  rw [core_run_succ hread]
  exact core_run_writes s.port h1 (by rwa [← List.length_append, List.take_append_drop])

/-- Settles O49: each pseudo-instruction is two host writes that fit, LOOPBACK's after one read. -/
theorem pseudoInstructionsExpand : Obligations.PseudoInstructionsExpand := by
  refine fun s => ⟨fun b h1 h2 => ?_, fun k hk h1 h2 => ?_, fun h1 h2 => core_run_loopbackAt h1 h2⟩
  · exact core_run_writes s.port h1 (by rwa [← List.length_append, List.take_append_drop])
  · exact core_run_loopbackAt (by rwa [List.length_take_of_le hk]) h2

end Sys2Proof.Machine

/-! SUPPORT. Proofs of the statements about the encoder's frames: the bytes of `EncodeFrame`, what ENC_RAW answers, and
what every ENC command writes and reads (40_codec_encode.md). -/

namespace Sys2Proof.Machine

/-! ### The bytes of `EncodeFrame` (R90) -/

/-- Padding with zeros changes no byte read with default zero. -/
theorem pad12_getD (d1 : Bytes) (k : Nat) : (pad12 d1).getD k 0 = d1.getD k 0 := by
  rw [pad12, zeros]
  by_cases hk : k < d1.length
  · exact List.getD_append _ _ _ _ hk
  · have hle : d1.length ≤ k := Nat.not_lt.mp hk
    rw [List.getD_append_right _ _ _ _ hle, List.getD_eq_default _ _ hle, List.getD_eq_getElem?_getD,
      List.getElem?_getD_replicate_default_eq]

theorem encodedNibble_toNat (v : Variant) {d1 : Bytes} (h : d1.length ≤ 12) :
    (encodedNibble v d1).toNat = if v = .data then d1.length else 0 := by
  rw [encodedNibble]
  split
  · rw [BitVec.toNat_ofNat, Nat.mod_eq_of_lt (by omega)]
  · rfl

theorem trunc16_toNat (v : U64) : (trunc16 v).toNat = v.toNat % 2 ^ 16 := BitVec.toNat_setWidth ..

/-- Settles O26: the fields the frame decodes to are the operands, and each byte belongs to one field. -/
theorem encodeFrameLayout : Obligations.EncodeFrameLayout := by
  intro p v cid seq d1 d2 hp h1 h2 b
  obtain ⟨hop, hfields, hlen⟩ := encodeFrame_fields p v cid seq d2 h1
  have hseq : (frameFields b).seq = trunc16 seq := congrArg Frame.seq hfields
  have hdata1 : slice b 4 12 = pad12 d1 := congrArg Frame.data1 hfields
  have hreserved {k : Nat} (hk : k < 3) : b.getD (16 + k) 0 = (reservedBytes p).getD k 0 := by
    rw [← slice_getD b hk]
    exact congrArg (List.getD · k 0) (congrArg Frame.reserved hfields)
  have hfit : d2.length < 2 ^ 32 := by
    obtain ⟨-, -, -, hmax⟩ := hp
    rw [Params.maxData2] at h2
    omega
  refine ⟨congrArg Frame.connId hfields, ?_, ?_, ?_, fun k hk => ?_, ?_, ?_, ?_, ?_, congrArg Frame.data2 hfields⟩
  · rw [wireOpcode_eq, hop, highNibble_packNibbles]
    cases v <;> rfl
  · rw [wireNibble_eq, hop, lowNibble_packNibbles, encodedNibble_toNat v h1]
  · rw [wireSeq_eq, hseq, trunc16_toNat]
  · rw [← slice_getD b hk, hdata1, pad12_getD]
  · exact hreserved (k := 0) (by decide)
  · exact hreserved (k := 1) (by decide)
  · exact hreserved (k := 2) (by decide)
  · rw [wireLength_eq, hlen, BitVec.toNat_ofNat, Nat.mod_eq_of_lt hfit]

/-! ### The length of `TX` (R92) -/

/-- Settles O32: a command that rejects has no status OK, and one that emits leaves a frame of that length. -/
theorem encodedLength : Obligations.EncodedLength := by
  intro i d2 s t hi hexec hok
  obtain ⟨c, -, -, hcases⟩ := exec_enc hi
  rcases hcases s with ⟨v, cid, seq, d1, h1, -, hemit⟩ | ⟨e, hreject⟩
  · cases hexec.symm.trans hemit
    exact encodeFrame_length s.params v cid seq d2 h1
  · cases hexec.symm.trans hreject
    exact absurd hok (Failure.status_ne_ok (.encodeReject e))

/-! ### The ENC commands read their operands and the parameters only (R93) -/

/-- Two operations answer their two states with the same `TX` and the same `RES`, and change nothing else. -/
def SameTxRes (s s' : State) (o o' : Out) : Prop :=
  ∃ b r, o = .next ((s.setTx b).setRes r) ∧ o' = .next ((s'.setTx b).setRes r)

theorem sameTxRes_reject (c : BitVec 4) (e : EncodeReject) (s s' : State) :
    SameTxRes s s' (raise c (.encodeReject e) s) (raise c (.encodeReject e) s') :=
  ⟨[], _, rfl, rfl⟩

theorem sameTxRes_emit (c : BitVec 4) (v : Variant) (cid : Byte) (seq : U64) (d1 d2 : Bytes) {s s' : State}
    (hp : s.params = s'.params) : SameTxRes s s' (emit c v cid seq d1 d2 s) (emit c v cid seq d1 d2 s') :=
  ⟨_, _, emit_eq .., by rw [emit_eq, hp]⟩

/-- Settles O33: each test of an ENC command is on its operands and the parameters, so both states take the same
branch, which rejects or emits. -/
theorem encCommandsArePure : Obligations.EncCommandsArePure := by
  intro i d2 s s' hi hp
  change SameTxRes s s' (exec i s) (exec i s')
  cases i with
  | encRaw var cid seq d1 d2 =>
    simp only [exec, execEncRaw, hp]
    split
    · exact sameTxRes_reject ..
    split
    · exact sameTxRes_reject ..
    split
    · exact sameTxRes_reject ..
    · exact sameTxRes_emit _ _ _ _ _ _ hp
  | encSyn cid seq scid ver role =>
    simp only [exec, execEncSyn, hp]
    split
    · exact sameTxRes_reject ..
    · exact sameTxRes_emit _ _ _ _ _ _ hp
  | encAck cid seq ws space => exact sameTxRes_emit _ _ _ _ _ _ hp
  | encKeepalive cid ws space => exact sameTxRes_emit _ _ _ _ _ _ hp
  | encData cid seq chunk =>
    simp only [exec, execEncData, hp]
    split
    · exact sameTxRes_reject ..
    · exact sameTxRes_emit _ _ _ _ _ _ hp
  | encFin cid seq reason => exact sameTxRes_emit _ _ _ _ _ _ hp
  | _ => cases hi

/-! ### ENC_RAW (R91) -/

@[simp] theorem selectVariant_variantSelector (v : Variant) : selectVariant (variantSelector v) = some v := by
  cases v <;> rfl

/-- The illegal selectors are those above 4 (R29). -/
theorem selectVariant_eq_none_iff : ∀ var : BitVec 3, selectVariant var = none ↔ 4 < var.toNat := by decide

/-- ENC_RAW under a legal selector: the tests that remain, and what each branch leaves. -/
theorem execEncRaw_of_selectVariant {var : BitVec 3} {v : Variant} (hv : selectVariant var = some v) (cid : Byte)
    (seq : U64) (d1 d2 : Bytes) (s : State) :
    execEncRaw var cid seq d1 d2 s =
      if 12 < d1.length then raise 0x1 (.encodeReject (.data1TooLong d1.length)) s
      else if s.params.maxData2 < d2.length then raise 0x1 (.encodeReject (.data2TooLong d2.length)) s
      else emit 0x1 v cid seq d1 d2 s := by
  rw [execEncRaw, hv]

/-- Settles O27: an illegal selector is rejected at once; under a legal one the two length tests follow in order. -/
theorem encRawResult : Obligations.EncRawResult := by
  intro var cid seq d1 d2 s
  simp only [exec]
  have hlegal : var.toNat ≤ 4 → ∃ v, selectVariant var = some v := fun h =>
    Option.ne_none_iff_exists'.mp (mt (selectVariant_eq_none_iff var).1 (Nat.not_lt.mpr h))
  refine ⟨fun hvar => ?_, fun hvar h1 => ?_, fun hvar h1 h2 => ?_, fun v hv h1 h2 => ?_⟩
  · rw [execEncRaw, (selectVariant_eq_none_iff var).2 hvar, ← BitVec.ofNat_toNat]
    rfl
  · obtain ⟨v, hv⟩ := hlegal hvar
    rw [execEncRaw_of_selectVariant hv, if_pos h1]
    rfl
  · obtain ⟨v, hv⟩ := hlegal hvar
    rw [execEncRaw_of_selectVariant hv, if_neg (Nat.not_lt.mpr h1), if_pos h2]
    rfl
  · subst hv
    rw [execEncRaw_of_selectVariant (selectVariant_variantSelector v), if_neg (Nat.not_lt.mpr h1),
      if_neg (Nat.not_lt.mpr h2), emit_eq]
    rfl

end Sys2Proof.Machine

/-! SUPPORT. Proofs of the statements about PARSE: which step of it fails on which bytes, what a failure leaves, the
message that each variant's frame becomes, and that nothing reads the reserved bytes (41_parse.md). -/

namespace Sys2Proof

open Machine

/-! ### The five outcomes of the frame decoder in numbers (R101, R104, R106, R108, R170) -/

/-- The nibble's check in numbers, and in the decoder's own terms. -/
theorem not_badNibble {p : Params} {b : Bytes}
    (hn : wireOpcode b = p.opcData.toNat → wireNibble b ≤ 12) :
    ¬ (highNibble (b.getD 1 0) = p.opcData ∧ 12 < (lowNibble (b.getD 1 0)).toNat) := by
  rw [← BitVec.toNat_inj, ← wireOpcode_eq, ← wireNibble_eq]
  exact fun ⟨ho, hlt⟩ => Nat.not_lt.mpr (hn ho) hlt

section outcomes
variable {p : Params} {b : Bytes}

theorem decodeFrame_of_short (h : b.length < 23) : decodeFrame p b = .reject (.badFrame (.truncated b.length)) :=
  if_pos h

variable (h23 : 23 ≤ b.length)
include h23

theorem decodeFrame_of_badNibble (ho : wireOpcode b = p.opcData.toNat) (hn : 12 < wireNibble b) :
    decodeFrame p b = .reject (.badFrame (.invalidLength (wireNibble b) 12)) := by
  rw [wireOpcode_eq, BitVec.toNat_inj] at ho
  rw [wireNibble_eq] at hn ⊢
  exact (if_neg (Nat.not_lt.mpr h23)).trans (if_pos ⟨ho, hn⟩)

variable (hn : wireOpcode b = p.opcData.toNat → wireNibble b ≤ 12)
include hn

theorem decodeFrame_of_badLength (hl : wireLength b ≠ b.length - 23) :
    decodeFrame p b = .reject (.badFrame (.lengthMismatch (wireLength b) (b.length - 23))) := by
  rw [wireLength_eq] at hl ⊢
  exact (if_neg (Nat.not_lt.mpr h23)).trans ((if_neg (not_badNibble hn)).trans (if_neg hl))

variable (hl : wireLength b = b.length - 23)
include hl

theorem decodeFrame_of_unknownOpcode (hk : ¬ KnownOpcode p (wireOpcode b)) :
    decodeFrame p b = .reject (.badFrame (.unsupportedOpcode (highNibble (b.getD 1 0)))) := by
  rw [wireOpcode_eq, ← Params.variantOf_eq_none_iff] at hk
  rw [wireLength_eq] at hl
  refine (if_neg (Nat.not_lt.mpr h23)).trans ((if_neg (not_badNibble hn)).trans ((if_pos hl).trans ?_))
  rw [hk]

end outcomes

/-- An acceptable frame decodes to the frame instruction of the variant that its opcode selects. -/
theorem decodeFrame_of_acceptable {p : Params} {b : Bytes} (h : Acceptable p b) :
    ∃ v, p.opcode v = highNibble (b.getD 1 0) ∧ (v = .data → (frameFields b).nibble.toNat ≤ 12) ∧
      decodeFrame p b = .instr (.ofFrame (frameFields b) v) := by
  obtain ⟨h23, hn, hl, hk⟩ := h
  rw [wireOpcode_eq] at hk
  obtain ⟨v, hv⟩ := Option.ne_none_iff_exists'.mp fun hnone => (Params.variantOf_eq_none_iff p _).1 hnone hk
  have hop := Params.opcode_of_variantOf hv
  have hnib : highNibble (b.getD 1 0) = p.opcData → (frameFields b).nibble.toNat ≤ 12 :=
    fun ho => Nat.not_lt.mp fun hlt => not_badNibble hn ⟨ho, hlt⟩
  refine ⟨v, hop, ?_, decodeFrame_eq_instr_iff.2 ⟨h23, hnib, wireLength_eq b ▸ hl, v, hv, rfl⟩⟩
  rintro rfl
  exact hnib hop.symm

/-- How far PARSE has read when a check fails on a frame of `n` bytes (R109, R166). -/
def ParseFailure.cursor (n : Nat) : ParseFailure → Nat
  | .truncated _ => 0
  | .invalidLength _ _ => 16
  | .lengthMismatch _ _ => 23
  | .unsupportedOpcode _ => n

end Sys2Proof

namespace Sys2Proof.Machine

/-! ### PARSE through the frame decoder (R108, R109, R166) -/

theorem exec_parse (s : State) : exec .parse s = execParse s := rfl

/-- A frame instruction sets the cursor and does not read it. -/
theorem exec_ofFrame_setPos (f : Frame) (v : Variant) (k : Nat) (s : State) :
    exec (.ofFrame f v) (s.setPos k) = exec (.ofFrame f v) s := by
  cases v <;> rfl

/-- Settles O16: no check of PARSE fails on a frame that decodes, and its last step is the frame instruction. -/
theorem parseRunsTheDecodedFrame : Obligations.ParseRunsTheDecodedFrame := by
  intro s i h
  obtain ⟨h23, hnib, hlen, v, hv, rfl⟩ := decodeFrame_eq_instr_iff.1 h
  rw [exec_parse, execParse_eq, if_neg (Nat.not_lt.mpr h23), if_neg fun ⟨ho, hlt⟩ => Nat.not_lt.mpr (hnib ho) hlt,
    if_pos hlen, hv]
  exact (dispatchFrame_eq ..).trans (exec_ofFrame_setPos ..)

/-- PARSE raises the failure that the decoder finds, with the cursor where that check stands. -/
theorem exec_parse_of_badFrame {s : State} {e : ParseFailure}
    (h : decodeFrame s.params s.rx = .reject (.badFrame e)) :
    exec .parse s =
      .next (((s.setPos (e.cursor s.rx.length)).setRes (Res.failure 2 (.parse e))).setMsg .invalid) := by
  rw [exec_parse, execParse_eq]
  simp only [decodeFrame, frameFields_nibble] at h
  split at h
  · next hshort =>
    cases h
    rw [if_pos hshort]
    rfl
  · next hshort =>
    rw [if_neg hshort]
    split at h
    · next hnib =>
      cases h
      rw [if_pos hnib]
      rfl
    · next hnib =>
      rw [if_neg hnib]
      split at h
      · next hlen =>
        rw [if_pos hlen]
        cases hv : s.params.variantOf (highNibble (s.rx.getD 1 0)) with
        | none =>
          rw [hv] at h
          cases h
          rfl
        | some v =>
          rw [hv] at h
          cases h
      · next hlen =>
        cases h
        rw [if_neg hlen]
        rfl

/-! ### The first failing check (R101, R106, R109, R112, R165, R166, R170) -/

/-- What `RES` holds after PARSE of a frame the decoder rejects. -/
theorem exec_parse_res_of_badFrame {s : State} {e : ParseFailure}
    (h : decodeFrame s.params s.rx = .reject (.badFrame e)) :
    ∃ t, exec .parse s = .next t ∧ t.res = Res.failure 2 (.parse e) :=
  ⟨_, exec_parse_of_badFrame h, rfl⟩

/-- What `RES` holds after PARSE of an acceptable frame. -/
theorem exec_parse_res_of_acceptable {s : State} (h : Acceptable s.params s.rx) :
    ∃ t, exec .parse s = .next t ∧ t.res = Res.success 2 := by
  obtain ⟨v, -, hnib, hdec⟩ := decodeFrame_of_acceptable h
  obtain ⟨m, hexec, -⟩ := exec_ofFrame (frameFields s.rx) v s hnib
  exact ⟨_, (parseRunsTheDecodedFrame s _ hdec).trans hexec, rfl⟩

/-- Settles O13: each check that fails is the decoder's first reject, and a frame that passes them all is acceptable. -/
theorem parseReportsTheFirstFailingStep : Obligations.ParseReportsTheFirstFailingStep := by
  intro s
  by_cases hshort : s.rx.length < 23
  · rw [if_pos hshort]
    exact exec_parse_res_of_badFrame (decodeFrame_of_short hshort)
  have h23 : 23 ≤ s.rx.length := Nat.not_lt.mp hshort
  rw [if_neg hshort]
  by_cases hbad : wireOpcode s.rx = s.params.opcData.toNat ∧ 12 < wireNibble s.rx
  · rw [if_pos hbad]
    exact exec_parse_res_of_badFrame (decodeFrame_of_badNibble h23 hbad.1 hbad.2)
  have hnib : wireOpcode s.rx = s.params.opcData.toNat → wireNibble s.rx ≤ 12 :=
    fun ho => Nat.not_lt.mp fun hlt => hbad ⟨ho, hlt⟩
  rw [if_neg hbad]
  by_cases hlen : wireLength s.rx = s.rx.length - 23
  · rw [if_neg (not_not.mpr hlen)]
    by_cases hk : KnownOpcode s.params (wireOpcode s.rx)
    · rw [if_neg (not_not.mpr hk)]
      exact exec_parse_res_of_acceptable ⟨h23, hnib, hlen, hk⟩
    · rw [if_pos hk, wireOpcode_eq]
      exact exec_parse_res_of_badFrame (decodeFrame_of_unknownOpcode h23 hnib hlen hk)
  · rw [if_pos hlen]
    exact exec_parse_res_of_badFrame (decodeFrame_of_badLength h23 hnib hlen)

/-- Settles O11: a short frame is the decoder's first reject, and on a longer one no later step reports `Truncated`. -/
theorem shortFrameIsTruncated : Obligations.ShortFrameIsTruncated := by
  refine fun s => ⟨fun hshort => exec_parse_of_badFrame (decodeFrame_of_short hshort), fun h23 => ?_⟩
  obtain ⟨t, ht, hres⟩ := parseReportsTheFirstFailingStep s
  refine ⟨t, ht, ?_⟩
  rw [hres, if_neg (Nat.not_lt.mpr h23)]
  split_ifs <;> simp

/-- Settles O12: a wrong length field is the reject after the nibble's, and a right one leaves only the opcode's. -/
theorem lengthFieldMustEqualWhatRemains : Obligations.LengthFieldMustEqualWhatRemains := by
  refine fun s h23 hnib =>
    ⟨fun hlen => exec_parse_of_badFrame (decodeFrame_of_badLength h23 hnib hlen), fun hlen => ?_⟩
  obtain ⟨t, ht, hres⟩ := parseReportsTheFirstFailingStep s
  refine ⟨t, ht, ?_⟩
  rw [hres, if_neg (Nat.not_lt.mpr h23), if_neg fun ⟨ho, hlt⟩ => Nat.not_lt.mpr (hnib ho) hlt,
    if_neg (not_not.mpr hlen)]
  split_ifs <;> simp

/-! ### PARSE completes (R111) -/

/-- PARSE answers a state with the cursor inside the frame. -/
theorem exec_parse_pos_le (s : State) : ∃ t, exec .parse s = .next t ∧ t.pos ≤ s.rx.length := by
  rcases exec_parse_cases s with ⟨v, h23, -, hnib, -, -, hexec⟩ | ⟨e, k, hk, hexec⟩
  · obtain ⟨m, hframe, -⟩ := exec_ofFrame (frameFields s.rx) v (s.setPos s.rx.length) hnib
    refine ⟨_, hexec.trans hframe, ?_⟩
    simp only [pos_setRes, pos_setMsg, pos_setPos, frameFields_data2_length]
    omega
  · exact ⟨_, hexec, hk⟩

/-- Settles O15: PARSE is the command with code 2, whose status and whose unchanged items are known. -/
theorem parseIsTotal : Obligations.ParseIsTotal := by
  intro s
  obtain ⟨t, ht, hpos⟩ := exec_parse_pos_le s
  have he : CommandEffect 2 s t := runCommand_next (w := { code := 2, ops := {} }) ht
  obtain ⟨hrxh, hrxt, htx, -, -, hhost⟩ := he.frame
  have htx : t.tx = s.tx := by_contra fun hne => absurd (htx hne) (by decide)
  refine ⟨t, ht, ?_, hpos, fun _ => by rw [hrxh, hrxt]; exact ⟨rfl, rfl⟩, fun _ => by rw [htx], hhost⟩
  rcases he.status with hok | ⟨-, hbad⟩ | ⟨hc, -⟩ | ⟨hc, -⟩
  · simp [hok]
  · exact List.mem_cons_of_mem _ hbad
  · exact absurd hc (by decide)
  · exact absurd hc (by decide)

/-! ### The message of a received frame (R104, R110, R120 to R125) -/

/-- The message that a frame of a variant becomes, the variant's own fields read from `data1`. -/
def messageOf (p : Params) (f : Frame) : Variant → Message
  | .syn =>
    { receivedMessage .syn f f.data1 12 with
      senderConnId := f.data1.getD 0 0
      version := be16 (slice f.data1 1 2)
      role := if 1 ≤ (be16 (slice f.data1 1 2)).toNat then roleDecode p (f.data1.getD 3 0) else .undefined }
  | .ack =>
    { receivedMessage .ack f f.data1 12 with
      windowStart := zext64 (be16 (slice f.data1 0 2)), windowSpace := be16 (slice f.data1 2 2) }
  | .keepalive =>
    { receivedMessage .keepalive f f.data1 12 with
      windowStart := zext64 (be16 (slice f.data1 0 2)), windowSpace := be16 (slice f.data1 2 2) }
  | .data => receivedMessage .data f (dataSlot f.data1 f.nibble.toNat) f.nibble.toNat
  | .fin => { receivedMessage .fin f f.data1 12 with reason := f.data1.getD 0 0 }

/-- A frame instruction leaves that message, except a DATA frame with a nibble above 12. -/
theorem exec_ofFrame_eq (f : Frame) (v : Variant) (s : State) (h : v = .data → f.nibble.toNat ≤ 12) :
    exec (.ofFrame f v) s =
      .next (((s.setPos (23 + f.data2.length)).setMsg (messageOf s.params f v)).setRes (Res.success 0x2)) := by
  cases v with
  | syn => simp [Instr.ofFrame, exec, execSyn, constructSyn, receive_inl, messageOf]
  | data => exact if_neg (Nat.not_lt.mpr (h rfl))
  | ack => rfl
  | keepalive => rfl
  | fin => rfl

@[simp] theorem zext64_toNat (v : U16) : (zext64 v).toNat = v.toNat :=
  BitVec.toNat_setWidth_of_le (by decide)

/-- What every frame instruction that succeeds does, whatever its variant. -/
theorem exec_ofFrame_receivedAs (f : Frame) (v : Variant) (s : State) (h : v = .data → f.nibble.toNat ≤ 12) :
    ∃ t, exec (.ofFrame f v) s = .next t ∧ ReceivedAs v f s t ∧ t.msg = messageOf s.params f v := by
  obtain ⟨m, hexec, hvalid, hvar, hcid, hseq, hseqExt, hwsExt, hd2, hothers, -⟩ := exec_ofFrame f v s h
  have hm : m = messageOf s.params f v :=
    congrArg State.msg (Host.Outcome.next.inj (hexec.symm.trans (exec_ofFrame_eq f v s h)))
  have hseq' : m.seq.toNat = f.seq.toNat := by rw [hseq, zext64_toNat]
  exact ⟨_, hexec, ⟨hvalid, hvar, hcid, hseq', hseqExt, hwsExt, hd2, hothers, rfl, rfl, fun _ => ⟨rfl, rfl⟩,
    fun _ => rfl, rfl, rfl, rfl⟩, hm⟩

/-! ### The DATA frame (R19, R25, R104, R124) -/

section dataSlot
variable {raw : Bytes} {len : Nat} (hraw : raw.length = 12) (hlen : len ≤ 12)
include hraw hlen

theorem dataSlot_eq_pad12 : dataSlot raw len = pad12 (raw.take len) := by
  rw [dataSlot, pad12, List.length_take_of_le (hraw ▸ hlen)]

theorem dataSlot_length : (dataSlot raw len).length = 12 := by
  rw [dataSlot_eq_pad12 hraw hlen]
  exact pad12_length (List.length_take_le .. |>.trans hlen)

/-- The bytes of the slot from its logical length on read as zero. -/
theorem dataSlot_getD (k : Nat) : (dataSlot raw len).getD k 0 = if k < len then raw.getD k 0 else 0 := by
  rw [dataSlot_eq_pad12 hraw hlen, pad12_getD, List.getD_eq_getElem?_getD, List.getElem?_take]
  split
  · rw [List.getD_eq_getElem?_getD]
  · rfl

theorem take_dataSlot : (dataSlot raw len).take len = raw.take len :=
  List.take_left' (List.length_take_of_le (hraw ▸ hlen))

end dataSlot

theorem messageOf_data_d1len (p : Params) (f : Frame) : (messageOf p f .data).d1len = f.nibble :=
  BitVec.ofNat_toNat .. |>.trans (BitVec.setWidth_eq _)

theorem messageOf_data_payload (p : Params) {f : Frame} (h1 : f.data1.length = 12) (hn : f.nibble.toNat ≤ 12) :
    (messageOf p f .data).payload = f.data1.take f.nibble.toNat ++ f.data2 := by
  rw [Message.payload, messageOf_data_d1len]
  exact congrArg (· ++ f.data2) (take_dataSlot h1 hn)

/-- Settles O24: the message of a DATA frame is its slot of the nibble's length, and a larger nibble is raised. -/
theorem dataFrameFields : Obligations.DataFrameFields := by
  refine fun f s h1 => ⟨fun hn => ?_, fun hn => ?_⟩
  · obtain ⟨t, hexec, hrec, hmsg⟩ := exec_ofFrame_receivedAs f .data s fun _ => hn
    refine ⟨t, hexec, hrec, ?_⟩
    rw [hmsg]
    exact ⟨messageOf_data_d1len .., dataSlot_length h1 hn, dataSlot_getD h1 hn, messageOf_data_payload _ h1 hn⟩
  · rw [← BitVec.ofNat_toNat]
    exact if_pos hn

/-! ### The message in the bytes of its frame (R110) -/

theorem frameFields_data1_length {b : Bytes} (h : 23 ≤ b.length) : (frameFields b).data1.length = 12 :=
  slice_length_of_le (by omega)

theorem frameFields_data1_getD (b : Bytes) {k : Nat} (h : k < 12) :
    (frameFields b).data1.getD k 0 = b.getD (4 + k) 0 := slice_getD b h

/-- A 16-bit field of `data1` in the bytes of the frame. -/
theorem be16_frameFields_data1 (b : Bytes) {off : Nat} (h : off < 11) :
    (be16 (slice (frameFields b).data1 off 2)).toNat =
      (b.getD (4 + off) 0).toNat * 256 + (b.getD (4 + off + 1) 0).toNat := by
  rw [be16_toNat, slice_getD _ (by decide), slice_getD _ (by decide), frameFields_data1_getD b (by omega),
    frameFields_data1_getD b (by omega)]
  rfl

theorem frameFields_nibble_toNat (b : Bytes) : (frameFields b).nibble.toNat = wireNibble b := (wireNibble_eq b).symm

theorem messageOf_variant (p : Params) (f : Frame) (v : Variant) : (messageOf p f v).variant = v := by
  cases v <;> rfl

/-- The variants other than DATA keep the 12 bytes of `data1`, whatever the nibble is. -/
theorem messageOf_of_ne_data (p : Params) (f : Frame) {v : Variant} (h : v ≠ .data) :
    (messageOf p f v).d1len = 12 ∧ (messageOf p f v).data1 = f.data1 := by
  cases v with
  | data => exact absurd rfl h
  | _ => exact ⟨rfl, rfl⟩

section messageOf
variable (p : Params) {b : Bytes} {v : Variant} (hn : v = .data → (frameFields b).nibble.toNat ≤ 12)

theorem messageOf_d1len :
    (messageOf p (frameFields b) v).d1len.toNat = if v = .data then wireNibble b else 12 := by
  split
  case isTrue hv => rw [hv, messageOf_data_d1len, frameFields_nibble_toNat]
  case isFalse hv => rw [(messageOf_of_ne_data p _ hv).1]; rfl

variable (h23 : 23 ≤ b.length)
include hn h23

theorem messageOf_data1_length : (messageOf p (frameFields b) v).data1.length = 12 := by
  by_cases hv : v = .data
  · subst hv
    exact dataSlot_length (frameFields_data1_length h23) (hn rfl)
  · rw [(messageOf_of_ne_data p _ hv).2, frameFields_data1_length h23]

theorem messageOf_data1_getD {k : Nat} (hk : k < 12) : (messageOf p (frameFields b) v).data1.getD k 0 =
    if v = .data ∧ wireNibble b ≤ k then 0 else b.getD (4 + k) 0 := by
  rw [← frameFields_data1_getD b hk]
  by_cases hv : v = .data
  · subst hv
    refine (dataSlot_getD (frameFields_data1_length h23) (hn rfl) k).trans ?_
    rw [frameFields_nibble_toNat]
    by_cases hlt : k < wireNibble b
    · rw [if_pos hlt, if_neg fun ⟨_, hle⟩ => Nat.not_lt.mpr hle hlt]
    · rw [if_neg hlt, if_pos ⟨rfl, Nat.not_lt.mp hlt⟩]
  · rw [(messageOf_of_ne_data p _ hv).2, if_neg fun ⟨hd, _⟩ => hv hd]

/-- The message of a DATA frame gives the payload out of the frame's bytes. -/
theorem messageOf_payload (hv : v = .data) :
    (messageOf p (frameFields b) v).payload = (b.drop 4).take (wireNibble b) ++ b.drop 23 := by
  subst hv
  have hle := hn rfl
  rw [messageOf_data_payload p (frameFields_data1_length h23) hle]
  rw [frameFields_nibble_toNat] at hle ⊢
  change (slice b 4 12).take (wireNibble b) ++ b.drop 23 = _
  rw [slice, List.take_take, Nat.min_eq_left hle]

/-- Every field that a message takes from `data1` stands at its offset of the frame (R104, R120 to R125). -/
theorem messageOf_readFrom : (messageOf p (frameFields b) v).ReadFrom p b := by
  rw [Message.ReadFrom, messageOf_variant]
  refine ⟨messageOf_d1len p, messageOf_data1_length p hn h23, fun k hk => messageOf_data1_getD p hn h23 hk,
    ?_, ?_, messageOf_payload p hn h23, ?_⟩
  · rintro rfl
    refine ⟨frameFields_data1_getD b (k := 0) (by decide), be16_frameFields_data1 b (off := 1) (by decide), ?_⟩
    rw [← frameFields_data1_getD b (k := 3) (by decide)]
    rfl
  · rintro (rfl | rfl)
    all_goals
      rw [messageOf, zext64_toNat]
      exact ⟨be16_frameFields_data1 b (off := 0) (by decide), be16_frameFields_data1 b (off := 2) (by decide)⟩
  · rintro rfl
    exact frameFields_data1_getD b (k := 0) (by decide)

end messageOf

/-- Settles O14: the frame runs as its frame instruction, whose message is read from the bytes of the frame. -/
theorem acceptableFrameBecomesTheMessage : Obligations.AcceptableFrameBecomesTheMessage := by
  intro s hacc
  have h23 : 23 ≤ s.rx.length := hacc.1
  obtain ⟨v, hop, hnib, hdec⟩ := decodeFrame_of_acceptable hacc
  obtain ⟨t, hexec, hrec, hmsg⟩ := exec_ofFrame_receivedAs (frameFields s.rx) v s hnib
  obtain ⟨hvalid, hvar, hcid, hseq, hseqExt, hwsExt, hd2, hothers, hres, hpos, hrx, htx, hhost⟩ := hrec
  have hn : 23 + (frameFields s.rx).data2.length = s.rx.length := by
    rw [frameFields_data2_length]
    omega
  refine ⟨t, (parseRunsTheDecodedFrame s _ hdec).trans hexec, hvalid, hcid.symm, ?_, ?_, ?_, hseqExt, hwsExt, hd2,
    ?_, hothers, ?_, hres, hpos.trans hn, hrx, htx, hhost⟩
  · rw [hvar, hop, wireOpcode_eq]
  · rw [hseq, wireSeq_eq]
  · rw [hseq]
    exact BitVec.isLt _
  · rw [Message.totalLength, hd2, hn]
  · rw [hmsg]
    exact messageOf_readFrom s.params hnib h23

/-! ### The reserved bytes (R105) -/

theorem messageOf_reserved (p : Params) (f : Frame) (v : Variant) (marker version : Byte) (r : Bytes) :
    messageOf { p with rsvMarker := marker, rsvVersion := version } { f with reserved := r } v = messageOf p f v := by
  cases v <;> rfl

theorem variantOf_reserved (p : Params) (marker version : Byte) (op : BitVec 4) :
    { p with rsvMarker := marker, rsvVersion := version : Params }.variantOf op = p.variantOf op := rfl

/-- Slices of sequences of one length are equal where the sequences read alike. -/
theorem slice_congr {b b' : Bytes} {off n : Nat} (hlen : b.length = b'.length)
    (h : ∀ k, k < n → b.getD (off + k) 0 = b'.getD (off + k) 0) : slice b off n = slice b' off n := by
  refine List.ext_getElem (by rw [slice_length, slice_length, hlen]) fun k hk hk' => ?_
  have hkn : k < n := by
    rw [slice_length] at hk
    omega
  rw [← List.getD_eq_getElem _ 0 hk, ← List.getD_eq_getElem _ 0 hk', slice_getD b hkn, slice_getD b' hkn, h k hkn]

theorem slice_to_end (b : Bytes) (off : Nat) : slice b off (b.length - off) = b.drop off := by
  rw [slice, ← List.length_drop, List.take_length]

section reserved
variable {b b' : Bytes} (hlen : b.length = b'.length)
  (hbytes : ∀ k, k ≠ 16 → k ≠ 17 → k ≠ 18 → b.getD k 0 = b'.getD k 0)
include hlen hbytes

/-- A slice that holds none of the offsets 16 to 18 is the same in both frames. -/
theorem slice_eq_off_reserved {off n : Nat} (h : off + n ≤ 16 ∨ 19 ≤ off) : slice b off n = slice b' off n :=
  slice_congr hlen fun k hk => hbytes _ (by omega) (by omega) (by omega)

/-- Frames that differ at the offsets 16 to 18 only differ in their reserved bytes only. -/
theorem frameFields_eq_off_reserved : frameFields b' = { frameFields b with reserved := slice b' 16 3 } := by
  have h0 : b.getD 0 0 = b'.getD 0 0 := hbytes 0 (by decide) (by decide) (by decide)
  have h1 : b.getD 1 0 = b'.getD 1 0 := hbytes 1 (by decide) (by decide) (by decide)
  have hseq : slice b 2 2 = slice b' 2 2 := slice_eq_off_reserved hlen hbytes (.inl (by decide))
  have hdata1 : slice b 4 12 = slice b' 4 12 := slice_eq_off_reserved hlen hbytes (.inl (by decide))
  have hdata2 : b.drop 23 = b'.drop 23 := by
    rw [← slice_to_end, ← slice_to_end, hlen]
    exact slice_eq_off_reserved hlen hbytes (.inr (by decide))
  simp only [frameFields, h0, h1, hseq, hdata1, hdata2]

end reserved

/-- A received frame's result depends on no reserved byte, neither of the frame nor of the parameters. -/
theorem sameResult_exec_ofFrame_reserved {s s' : State} {marker version : Byte} (r : Bytes)
    (hp : s'.params = { s.params with rsvMarker := marker, rsvVersion := version }) {f : Frame} {v : Variant}
    (hn : v = .data → f.nibble.toNat ≤ 12) :
    SameResult (exec (.ofFrame f v) s) (exec (.ofFrame { f with reserved := r } v) s') := by
  refine ⟨_, _, exec_ofFrame_eq f v s hn, exec_ofFrame_eq { f with reserved := r } v s' hn, ?_, rfl, rfl⟩
  rw [hp]
  exact (messageOf_reserved s.params f v marker version r).symm

/-- Settles O19: every check reads bytes that the two frames share, so both end alike or run one frame instruction on
frames that differ in their reserved bytes. -/
theorem parseIgnoresTheReservedBytes : Obligations.ParseIgnoresTheReservedBytes := by
  intro s s' marker version hlen hbytes hp
  change SameResult (exec .parse s) (exec .parse s')
  have h1 : s'.rx.getD 1 0 = s.rx.getD 1 0 := (hbytes 1 (by decide) (by decide) (by decide)).symm
  have hfield : slice s'.rx 19 4 = slice s.rx 19 4 := (slice_eq_off_reserved hlen hbytes (.inr (by decide))).symm
  have hdata : s'.params.opcData = s.params.opcData := by rw [hp]
  have hvariant (op : BitVec 4) : s'.params.variantOf op = s.params.variantOf op := by rw [hp, variantOf_reserved]
  rw [exec_parse, exec_parse, execParse_eq, execParse_eq, ← hlen, h1, hfield, hdata, hvariant]
  split
  · exact sameResult_raise_parse ..
  split
  · exact sameResult_raise_parse ..
  · next hnib =>
    split
    · split
      · exact sameResult_raise_parse ..
      · next v hv =>
        have hn : v = .data → (frameFields s.rx).nibble.toNat ≤ 12 := by
          rintro rfl
          exact Nat.not_lt.mp fun hlt => hnib ⟨(Params.opcode_of_variantOf hv).symm, hlt⟩
        rw [dispatchFrame_eq, dispatchFrame_eq, exec_ofFrame_setPos, exec_ofFrame_setPos,
          frameFields_eq_off_reserved hlen hbytes]
        exact sameResult_exec_ofFrame_reserved _ hp hn
    · exact sameResult_raise_parse ..

end Sys2Proof.Machine

/-! SUPPORT. Proofs of the statements about the five variants: the role bytes, what each constructor and frame
instruction reads, what each variant encoder writes, and the way of an encoded frame through LOOPBACK and PARSE
(42_variants.md). -/

namespace Sys2Proof.Machine

/-! ### The role bytes (R121, R131) -/

theorem roleDecode_eq_requestor_iff (p : Params) (b : Byte) : roleDecode p b = .requestor ↔ b = p.roleRequestor := by
  rw [roleDecode]
  split_ifs <;> simp_all

/-- Where the bytes of REQUESTOR and ACCEPTOR differ, the order of the two tests does not matter. -/
theorem roleDecode_eq_acceptor_iff {p : Params} (hne : p.roleRequestor ≠ p.roleAcceptor) (b : Byte) :
    roleDecode p b = .acceptor ↔ b = p.roleAcceptor := by
  rw [roleDecode]
  split_ifs <;> simp_all

/-- The last column of R6 for the roles. -/
theorem role_bytes_distinct {p : Params} (hp : p.Legal) :
    p.roleUndefined ≠ p.roleRequestor ∧ p.roleUndefined ≠ p.roleAcceptor ∧ p.roleRequestor ≠ p.roleAcceptor := by
  obtain ⟨-, hroles, -⟩ := hp
  simpa [and_assoc] using hroles

theorem roleDecode_roleEncode {p : Params} (hp : p.Legal) (r : Role) : roleDecode p (roleEncode p r) = r := by
  obtain ⟨hur, hua, hra⟩ := role_bytes_distinct hp
  cases r with
  | undefined => rw [roleEncode, roleDecode, if_neg hur, if_neg hua]
  | requestor => exact (roleDecode_eq_requestor_iff p _).2 rfl
  | acceptor => exact (roleDecode_eq_acceptor_iff hra _).2 rfl

/-- Settles O22: three distinct bytes, each tested for by itself. -/
theorem roleBytes : Obligations.RoleBytes := by
  intro p hp
  obtain ⟨-, -, hra⟩ := role_bytes_distinct hp
  exact ⟨⟨rfl, rfl, rfl⟩, roleDecode_roleEncode hp, roleDecode_eq_requestor_iff p, roleDecode_eq_acceptor_iff hra⟩

/-! ### The constructors and the frame instructions (R120, R122, R123, R125) -/

theorem be16_slice_toNat (b : Bytes) (off : Nat) :
    (be16 (slice b off 2)).toNat = (b.getD off 0).toNat * 256 + (b.getD (off + 1) 0).toNat := by
  rw [be16_toNat, slice_getD b (by decide), slice_getD b (by decide)]
  rfl

theorem constructSyn_of_lt (p : Params) (m : Message) (d1 : Bytes) {len : Nat} (h : len < 3) :
    constructSyn p m d1 len = .inr (.invalidLength len 3) := if_pos h

theorem constructSyn_of_le (p : Params) (m : Message) (d1 : Bytes) {len : Nat} (h : 3 ≤ len) :
    constructSyn p m d1 len = .inl { m with
      senderConnId := d1.getD 0 0
      version := be16 (slice d1 1 2)
      role := if 1 ≤ (be16 (slice d1 1 2)).toNat ∧ 4 ≤ len then roleDecode p (d1.getD 3 0) else .undefined } :=
  if_neg (Nat.not_lt.mpr h)

/-- Settles O21: the constructor by its one test, and the frame instruction by the message it leaves. -/
theorem synFrameFields : Obligations.SynFrameFields := by
  refine ⟨fun p m d1 len => ⟨constructSyn_of_lt p m d1, fun _ hlen => ?_⟩, fun f s _ => ?_⟩
  · exact ⟨_, constructSyn_of_le p m d1 hlen, rfl, be16_slice_toNat d1 1, rfl, rfl⟩
  · obtain ⟨t, hexec, hrec, hmsg⟩ := exec_ofFrame_receivedAs f .syn s nofun
    refine ⟨t, hexec, hrec, ?_⟩
    rw [hmsg]
    exact ⟨rfl, rfl, rfl, be16_slice_toNat f.data1 1, rfl⟩

theorem constructKeepalive_eq (m : Message) (d1 : Bytes) (len : Nat) :
    constructKeepalive m d1 len = constructAck m d1 len := rfl

theorem constructAck_of_lt (m : Message) (d1 : Bytes) {len : Nat} (h : len < 4) :
    constructAck m d1 len = .inr (.invalidLength len 4) := if_pos h

theorem constructAck_of_le (m : Message) (d1 : Bytes) {len : Nat} (h : 4 ≤ len) :
    constructAck m d1 len =
      .inl { m with windowStart := zext64 (be16 (slice d1 0 2)), windowSpace := be16 (slice d1 2 2) } :=
  if_neg (Nat.not_lt.mpr h)

/-- The variants with a window read it from the first four bytes of `data1`. -/
theorem messageOf_window (p : Params) (f : Frame) {v : Variant} (hv : hasWindow v = true) :
    (messageOf p f v).windowStart = zext64 (be16 (slice f.data1 0 2)) ∧
      (messageOf p f v).windowSpace = be16 (slice f.data1 2 2) := by
  rcases (hasWindow_iff v).1 hv with rfl | rfl <;> exact ⟨rfl, rfl⟩

theorem windowStart_toNat (d1 : Bytes) :
    (zext64 (be16 (slice d1 0 2))).toNat = (d1.getD 0 0).toNat * 256 + (d1.getD 1 0).toNat := by
  rw [zext64_toNat, be16_slice_toNat]

/-- The frame instruction of a variant with a window. -/
theorem exec_ofFrame_window (f : Frame) (s : State) {v : Variant} (hv : hasWindow v = true) :
    ∃ t, exec (.ofFrame f v) s = .next t ∧ ReceivedAs v f s t ∧ t.msg.d1len = 12 ∧ t.msg.data1 = f.data1 ∧
      t.msg.windowStart.toNat = (f.data1.getD 0 0).toNat * 256 + (f.data1.getD 1 0).toNat ∧
      t.msg.windowSpace.toNat = (f.data1.getD 2 0).toNat * 256 + (f.data1.getD 3 0).toNat := by
  have hdata : v ≠ .data := by
    rintro rfl
    cases hv
  obtain ⟨t, hexec, hrec, hmsg⟩ := exec_ofFrame_receivedAs f v s fun h => absurd h hdata
  obtain ⟨hd1len, hdata1⟩ := messageOf_of_ne_data s.params f hdata
  obtain ⟨hstart, hspace⟩ := messageOf_window s.params f hv
  refine ⟨t, hexec, hrec, ?_⟩
  rw [hmsg, hstart, hspace]
  exact ⟨hd1len, hdata1, windowStart_toNat f.data1, be16_slice_toNat f.data1 2⟩

/-- Settles O23: the two constructors are one, and so are the two frame instructions but for their variant. -/
theorem windowFrameFields : Obligations.WindowFrameFields := by
  refine ⟨fun m d1 len => ?_, fun f s _ => exec_ofFrame_window f s (v := .ack) rfl,
    fun f s _ => exec_ofFrame_window f s (v := .keepalive) rfl⟩
  rw [constructKeepalive_eq]
  refine ⟨fun hlen => ⟨constructAck_of_lt m d1 hlen, constructAck_of_lt m d1 hlen⟩, fun _ hlen => ?_⟩
  exact ⟨_, constructAck_of_le m d1 hlen, constructAck_of_le m d1 hlen, windowStart_toNat d1,
    be16_slice_toNat d1 2, rfl⟩

/-- Settles O25: the constructor by its one test, and the frame instruction by the message it leaves. -/
theorem finFrameFields : Obligations.FinFrameFields := by
  refine ⟨fun m d1 len => ⟨fun hlen => if_pos hlen, fun _ hlen => if_neg (Nat.not_lt.mpr hlen)⟩, fun f s _ => ?_⟩
  obtain ⟨t, hexec, hrec, hmsg⟩ := exec_ofFrame_receivedAs f .fin s nofun
  refine ⟨t, hexec, hrec, ?_⟩
  rw [hmsg]
  exact ⟨rfl, rfl, rfl⟩

/-! ### The minimum lengths on the PARSE path (R126) -/

/-- Settles O20: of the outcomes that PARSE can report, `InvalidLength` is the one of the nibble's check. -/
theorem minimumLengthNeverFailsInParse : Obligations.MinimumLengthNeverFailsInParse := by
  intro s t hexec hstatus
  obtain ⟨t', hexec', hres⟩ := parseReportsTheFirstFailingStep s
  cases hexec.symm.trans hexec'
  split_ifs at hres with hshort hnib <;> rw [hres] at hstatus ⊢
  · cases hstatus
  · exact ⟨hnib.1, hnib.2, rfl, rfl⟩
  all_goals cases hstatus

/-! ### The ENC commands of the variants (R130 to R136) -/

theorem selectRole_eq_none_iff : ∀ role : BitVec 2, selectRole role = none ↔ role = 3 := by decide

theorem selectRole_eq_some_iff (role : BitVec 2) (r : Role) : selectRole role = some r ↔ roleSelector r = role := by
  cases r <;> revert role <;> decide

theorem one_le_toNat_iff (ver : U16) : 1 ≤ ver.toNat ↔ ver ≠ 0 := by
  rw [Nat.one_le_iff_ne_zero]
  exact (BitVec.toNat_ne (y := 0)).symm

/-- The `data1` of a SYN in numbers. -/
theorem synBytes_eq (p : Params) (scid : Byte) (ver : U16) (r : Role) :
    synBytes p scid ver r = [scid, BitVec.ofNat 8 (ver.toNat / 256), BitVec.ofNat 8 ver.toNat,
      if ver = 0 then 0x00 else roleEncode p r] ++ zeros 8 := by
  simp only [synBytes, toBe16_eq, one_le_toNat_iff, ne_eq, ite_not]
  rfl

theorem exec_encSyn_of_none {role : BitVec 2} (h : selectRole role = none) (cid : Byte) (seq : U64) (scid : Byte)
    (ver : U16) (s : State) :
    exec (.encSyn cid seq scid ver role) s = raise 0x3 (.encodeReject (.badRole role)) s := by
  simp only [exec, execEncSyn, h]

theorem exec_encSyn_of_some {role : BitVec 2} {r : Role} (h : selectRole role = some r) (cid : Byte) (seq : U64)
    (scid : Byte) (ver : U16) (s : State) :
    exec (.encSyn cid seq scid ver role) s = emit 0x3 .syn cid seq (synBytes s.params scid ver r) [] s := by
  simp only [exec, execEncSyn, h]

/-- Settles O28: the illegal selector is rejected before the version is looked at, a legal one is emitted. -/
theorem encSynResult : Obligations.EncSynResult := by
  refine fun cid seq scid ver role s => ⟨fun hrole => ?_, fun r hrole => ?_⟩
  · subst hrole
    exact exec_encSyn_of_none rfl cid seq scid ver s
  · rw [exec_encSyn_of_some ((selectRole_eq_some_iff role r).2 hrole), emit_eq, synBytes_eq]
    rfl

theorem clamp0_toNat (space : U64) : (clamp0 space).toNat = if space.toInt < 0 then 0 else space.toNat := by
  rw [clamp0]
  split <;> rfl

/-- The low two bytes of a 64-bit value, big-endian. -/
theorem toBe16_trunc16 (v : U64) :
    toBe16 (trunc16 v) = [BitVec.ofNat 8 (v.toNat / 256), BitVec.ofNat 8 v.toNat] := by
  rw [toBe16_eq, trunc16_toNat]
  simp only [List.cons.injEq, and_true]
  constructor <;> apply BitVec.eq_of_toNat_eq <;> simp only [BitVec.toNat_ofNat] <;> omega

/-- Settles O29: both commands emit the same `data1`, whose space is clamped first. -/
theorem encWindowResults : Obligations.EncWindowResults := by
  intro cid seq ws space s clamped d1
  have hd1 : windowBytes ws space = d1 := by
    rw [windowBytes, toBe16_trunc16, toBe16_trunc16, clamp0_toNat]
    rfl
  rw [← hd1]
  exact ⟨emit_eq 0x4 .ack cid seq _ [] s, emit_eq 0x5 .keepalive cid 0 _ [] s⟩

/-- ENC_DATA with the cut at byte 12, which for a shorter chunk is its end. -/
theorem exec_encData (cid : Byte) (seq : U64) (chunk : Bytes) (s : State) :
    exec (.encData cid seq chunk) s =
      if s.params.maxData2 < chunk.length - 12 then
        raise 0x6 (.encodeReject (.data2TooLong (chunk.length - 12))) s
      else emit 0x6 .data cid seq (chunk.take 12) (chunk.drop 12) s := by
  have hrest : chunk.length - min 12 chunk.length = chunk.length - 12 := by omega
  simp only [exec, execEncData, hrest, ← List.take_eq_take_min, ← List.drop_eq_drop_min]

/-- Settles O30, by the one test of ENC_DATA. -/
theorem encDataResult : Obligations.EncDataResult := by
  intro cid seq chunk s
  rw [exec_encData]
  refine ⟨fun hlong => if_pos hlong, fun hfit => ?_⟩
  rw [if_neg (Nat.not_lt.mpr hfit), emit_eq]
  rfl

/-- Settles O31: ENC_FIN emits without a test. -/
theorem encFinResult : Obligations.EncFinResult :=
  fun cid seq reason s => emit_eq 0x7 .fin cid seq (finBytes reason) [] s

/-! ### An encoded frame through LOOPBACK and PARSE (R13, R82, R137) -/

/-- The fields of the frame that `EncodeFrame` writes. -/
def encodedFrame (p : Params) (v : Variant) (cid : Byte) (seq : U64) (d1 d2 : Bytes) : Frame where
  connId := cid
  nibble := encodedNibble v d1
  seq := trunc16 seq
  data1 := pad12 d1
  reserved := reservedBytes p
  data2 := d2

theorem encodeFrame_eq (p : Params) (v : Variant) (cid : Byte) (seq : U64) (d1 d2 : Bytes) :
    encodeFrame p v cid seq d1 d2 = frameBytes (p.opcode v) (encodedFrame p v cid seq d1 d2) := rfl

theorem encodedNibble_le {d1 : Bytes} (h1 : d1.length ≤ 12) (v : Variant) : (encodedNibble v d1).toNat ≤ 12 := by
  rw [encodedNibble_toNat v h1]
  split <;> omega

/-- An encoded frame decodes to the frame instruction of its fields. -/
theorem decodeFrame_encodeFrame {p : Params} (hp : p.Legal) (v : Variant) (cid : Byte) (seq : U64) {d1 d2 : Bytes}
    (h1 : d1.length ≤ 12) (h2 : d2.length ≤ p.maxData2) :
    decodeFrame p (encodeFrame p v cid seq d1 d2) = .instr (.ofFrame (encodedFrame p v cid seq d1 d2) v) := by
  rw [encodeFrame_eq]
  exact decodeFrame_frameBytes hp ((wellFormed_ofFrame_iff p _ v).2
    ⟨(Frame.wellFormed_iff p _).2 ⟨pad12_length h1, rfl, h2⟩, fun _ => encodedNibble_le h1 v⟩)

/-- PARSE of an encoded frame leaves the message of its fields. -/
theorem exec_parse_of_rx_eq_encodeFrame {s : State} {p : Params} (hs : s.params = p) (hp : p.Legal) {v : Variant}
    {cid : Byte} {seq : U64} {d1 d2 : Bytes} (h1 : d1.length ≤ 12) (h2 : d2.length ≤ p.maxData2)
    (hrx : s.rx = encodeFrame p v cid seq d1 d2) :
    ∃ u, exec .parse s = .next u ∧ ReceivedAs v (encodedFrame p v cid seq d1 d2) s u ∧
      u.msg = messageOf p (encodedFrame p v cid seq d1 d2) v := by
  subst hs
  have hdec := decodeFrame_encodeFrame hp v cid seq h1 h2
  rw [← hrx] at hdec
  rw [parseRunsTheDecodedFrame s _ hdec]
  exact exec_ofFrame_receivedAs _ v s fun _ => encodedNibble_le h1 v

theorem core_run_refused {k : Nat} {s : State} {r : Refusal} (h : step s = .refused r) :
    Sys2Proof.core.run (k + 1) s = .refused r := by
  have h' : Sys2Proof.core.step s = .refused r := h
  simp only [Host.Core.run, h']

/-- A run that answers a state after some steps goes on from there. -/
theorem core_run_add {j k : Nat} {s t : State} (h : Sys2Proof.core.run j s = .next t) :
    Sys2Proof.core.run (j + k) s = Sys2Proof.core.run k t := by
  induction j generalizing s with
  | zero =>
    cases h
    rw [Nat.zero_add]
  | succ j ih =>
    rw [Nat.add_right_comm]
    rcases step_next_or_refused s with ⟨s', hnext⟩ | ⟨href, -⟩
    · rw [core_run_succ hnext] at h ⊢
      exact ih h
    · cases (core_run_refused href).symm.trans h

theorem core_run_one (s : State) : Sys2Proof.core.run 1 s = step s := by
  rcases step_next_or_refused s with ⟨t, hnext⟩ | ⟨href, -⟩
  · exact (core_run_succ (k := 0) hnext).trans hnext.symm
  · exact (core_run_refused (k := 0) href).trans href.symm

theorem step_parse {s : State} {rest : List HostAction} (h : s.port = .command { code := 0x2, ops := {} } :: rest) :
    step s = exec .parse (s.setPort rest) := step_cons h

/-- LOOPBACK `k` and PARSE, run in any state in which the two writes fit, are PARSE of the bytes of `TX`. -/
theorem core_run_loopbackAt_parse {s : State} {k : Nat}
    (h1 : (s.tx.take k).length + s.rxt.length ≤ s.params.maxFrame) (h2 : s.tx.length ≤ s.params.maxFrame) :
    ∃ s' : State, s'.rx = s.tx ∧ s'.params = s.params ∧
      Sys2Proof.core.run 4 ((s.setPort [.command { code := 0x2, ops := {} }]).issue (s.loopbackAtActions k)) =
        exec .parse s' := by
  have hload := core_run_loopbackAt (s := s.setPort [.command { code := 0x2, ops := {} }]) h1 h2
  have hparse := (core_run_add (k := 1) hload).trans ((core_run_one _).trans (step_parse rfl))
  refine ⟨_, ?_, ?_, hparse⟩
  · exact List.take_append_drop k s.tx
  · rfl

/-- What an ENC command emits comes back through LOOPBACK `k` and PARSE: the generic fields, and the message of which
the variant's own fields are read. -/
theorem core_run_loopbackAt_parse_of_emit {c : BitVec 4} {v : Variant} {cid : Byte} {seq : U64} {d1 d2 : Bytes}
    {s t : State} {k : Nat} (hp : s.params.Legal) (h1 : d1.length ≤ 12) (h2 : d2.length ≤ s.params.maxData2)
    (hemit : emit c v cid seq d1 d2 s = .next t)
    (hk : (t.tx.take k).length + s.rxt.length ≤ s.params.maxFrame) :
    ∃ u : State,
      Sys2Proof.core.run 4 ((t.setPort [.command { code := 0x2, ops := {} }]).issue (t.loopbackAtActions k)) =
        .next u ∧
      u.res.status = .ok ∧ u.msg.valid = true ∧ u.msg.variant = v ∧ u.msg.connId = cid ∧
      u.msg.seq.toNat = seq.toNat % 2 ^ 16 ∧ u.msg.data2 = d2 ∧
      u.msg = messageOf s.params (encodedFrame s.params v cid seq d1 d2) v := by
  rw [emit_eq] at hemit
  cases hemit
  have hfit : 23 + d2.length ≤ s.params.maxFrame := by
    obtain ⟨-, -, h23, -⟩ := hp
    rw [Params.maxData2] at h2
    omega
  obtain ⟨s', hrx, hparams, hrun⟩ :=
    core_run_loopbackAt_parse hk ((encodeFrame_length s.params v cid seq d2 h1).trans_le hfit)
  obtain ⟨u, hparse, hrec, hmsg⟩ := exec_parse_of_rx_eq_encodeFrame hparams hp h1 h2 hrx
  obtain ⟨hvalid, hvar, hcid, hseq, -, -, hd2, -, hres, -⟩ := hrec
  exact ⟨u, hrun.trans hparse, by rw [hres], hvalid, hvar, hcid, hseq.trans (trunc16_toNat seq), hd2, hmsg⟩

/-! ### The variant's own fields of a frame that its encoder wrote (R137) -/

/-- The role of a SYN comes back, but at version 0, where its byte is not written. -/
theorem messageOf_encodedFrame_syn {p : Params} (hp : p.Legal) (cid : Byte) (seq : U64) (scid : Byte) (ver : U16)
    (r : Role) :
    let m := messageOf p (encodedFrame p .syn cid seq (synBytes p scid ver r) []) .syn
    m.senderConnId = scid ∧ m.version = ver ∧ m.role = if ver = 0 then .undefined else r := by
  have hver : be16 (slice (pad12 (synBytes p scid ver r)) 1 2) = ver := be16_toBe16 ver
  have hrole : (pad12 (synBytes p scid ver r)).getD 3 0 = if 1 ≤ ver.toNat then roleEncode p r else 0x00 := rfl
  refine ⟨rfl, hver, ?_⟩
  simp only [messageOf, encodedFrame, hver, hrole, one_le_toNat_iff, ne_eq, ite_not]
  by_cases h0 : ver = 0
  · rw [if_pos h0, if_pos h0]
  · rw [if_neg h0, if_neg h0, if_neg h0, roleDecode_roleEncode hp]

/-- The window of an ACK or a KEEPALIVE comes back, reduced. -/
theorem messageOf_encodedFrame_window (p : Params) {v : Variant} (hv : hasWindow v = true) (cid : Byte)
    (seq ws space : U64) :
    let m := messageOf p (encodedFrame p v cid seq (windowBytes ws space) []) v
    m.windowStart.toNat = ws.toNat % 2 ^ 16 ∧
      m.windowSpace.toNat = (if space.toInt < 0 then 0 else space.toNat) % 2 ^ 16 := by
  obtain ⟨hstart, hspace⟩ := messageOf_window p (encodedFrame p v cid seq (windowBytes ws space) []) hv
  have hws : be16 (slice (pad12 (windowBytes ws space)) 0 2) = trunc16 ws := be16_toBe16 _
  have hsp : be16 (slice (pad12 (windowBytes ws space)) 2 2) = trunc16 (clamp0 space) := be16_toBe16 _
  intro m
  rw [hstart, hspace, encodedFrame, hws, hsp, zext64_toNat, trunc16_toNat, trunc16_toNat, clamp0_toNat]
  exact ⟨rfl, rfl⟩

/-- The nibble of a DATA frame tells where the padding begins, so the payload is the bytes that were put in. -/
theorem messageOf_encodedFrame_data (p : Params) (cid : Byte) (seq : U64) {d1 : Bytes} (d2 : Bytes)
    (h1 : d1.length ≤ 12) :
    let m := messageOf p (encodedFrame p .data cid seq d1 d2) .data
    m.d1len.toNat = d1.length ∧ m.payload = d1 ++ d2 := by
  have hnib : (encodedNibble .data d1).toNat = d1.length := encodedNibble_toNat .data h1
  refine ⟨(congrArg BitVec.toNat (messageOf_data_d1len ..)).trans hnib, ?_⟩
  refine (messageOf_data_payload p (pad12_length h1) (encodedNibble_le h1 .data)).trans ?_
  simp only [encodedFrame, hnib]
  rw [pad12, List.take_left' rfl]

/-- Settles O35: each variant encoder that succeeds emits, what it emits comes back, and the variant's own fields are
read where its encoder wrote them. -/
theorem roundTripThroughTheWire : Obligations.RoundTripThroughTheWire := by
  intro i s t k hp hexec hok hk after
  cases i with
  | encSyn cid seq scid ver role =>
    cases hr : selectRole role with
    | none =>
      rw [exec_encSyn_of_none hr] at hexec
      cases hexec
      cases hok
    | some r =>
      rw [exec_encSyn_of_some hr] at hexec
      obtain ⟨u, hrun, hres, hvalid, hvar, hcid, hseq, hd2, hmsg⟩ :=
        core_run_loopbackAt_parse_of_emit hp (by simp [synBytes]) (Nat.zero_le _) hexec hk
      obtain ⟨hscid, hver, hrole⟩ := messageOf_encodedFrame_syn hp cid seq scid ver r
      rw [← hmsg] at hscid hver hrole
      refine ⟨u, hrun, hres, hvalid, hvar, hcid, hseq, hscid, hver, ?_, by rw [hmsg]; rfl, hd2⟩
      rw [hrole, ← (selectRole_eq_some_iff role r).1 hr]
      split <;> rfl
  | encAck cid seq ws space =>
    obtain ⟨u, hrun, hres, hvalid, hvar, hcid, hseq, hd2, hmsg⟩ :=
      core_run_loopbackAt_parse_of_emit hp (by simp [windowBytes]) (Nat.zero_le _) hexec hk
    obtain ⟨hstart, hspace⟩ := messageOf_encodedFrame_window s.params (v := .ack) rfl cid seq ws space
    rw [← hmsg] at hstart hspace
    exact ⟨u, hrun, hres, hvalid, hvar, hcid, hseq, hstart, hspace, by rw [hmsg]; rfl, hd2⟩
  | encKeepalive cid ws space =>
    obtain ⟨u, hrun, hres, hvalid, hvar, hcid, hseq, hd2, hmsg⟩ :=
      core_run_loopbackAt_parse_of_emit hp (by simp [windowBytes]) (Nat.zero_le _) hexec hk
    obtain ⟨hstart, hspace⟩ := messageOf_encodedFrame_window s.params (v := .keepalive) rfl cid 0 ws space
    rw [← hmsg] at hstart hspace
    exact ⟨u, hrun, hres, hvalid, hvar, hcid, BitVec.eq_of_toNat_eq hseq, hstart, hspace, by rw [hmsg]; rfl, hd2⟩
  | encData cid seq chunk =>
    rw [exec_encData] at hexec
    split at hexec
    · cases hexec
      cases hok
    · next hfit =>
      have h1 : (chunk.take 12).length ≤ 12 := List.length_take_le ..
      have h2 : (chunk.drop 12).length ≤ s.params.maxData2 := List.length_drop ▸ Nat.not_lt.mp hfit
      obtain ⟨u, hrun, hres, hvalid, hvar, hcid, hseq, -, hmsg⟩ :=
        core_run_loopbackAt_parse_of_emit hp h1 h2 hexec hk
      obtain ⟨hd1len, hpayload⟩ := messageOf_encodedFrame_data s.params cid seq (chunk.drop 12) h1
      rw [← hmsg] at hd1len hpayload
      exact ⟨u, hrun, hres, hvalid, hvar, hcid, hseq, hd1len.trans List.length_take,
        hpayload.trans (List.take_append_drop 12 chunk)⟩
  | encFin cid seq reason =>
    obtain ⟨u, hrun, hres, hvalid, hvar, hcid, hseq, hd2, hmsg⟩ :=
      core_run_loopbackAt_parse_of_emit hp (by simp [finBytes]) (Nat.zero_le _) hexec hk
    exact ⟨u, hrun, hres, hvalid, hvar, hcid, hseq, by rw [hmsg]; rfl, by rw [hmsg]; rfl, hd2⟩
  | _ => trivial

end Sys2Proof.Machine

/-! SUPPORT. Proofs of the statements about the extend commands: what each branch of EXT_SEQ and EXT_WS answers, and
that an extended field keeps its value until the message is replaced (43_extend.md). -/

namespace Sys2Proof.Machine

/-! ### The branches of EXT_SEQ (R150) -/

section extSeq
variable {s : State} (l : U64)

theorem exec_extSeq_of_invalid (hv : s.msg.valid = false) :
    exec (.extSeq l) s = .next (s.setRes (Res.failure 8 (.badCommand .noMessage))) :=
  if_pos hv

variable (hv : s.msg.valid = true)
include hv

theorem exec_extSeq_of_extended (he : s.msg.seqExt = true) :
    exec (.extSeq l) s = .next (s.setRes (Res.failure 8 (.badCommand .alreadyExtended))) :=
  (if_neg (by simp [hv])).trans (if_pos he)

theorem exec_extSeq_of_unextended (he : s.msg.seqExt = false) :
    exec (.extSeq l) s = .next ((s.setMsg { s.msg with seq := l, seqExt := true }).setRes (Res.success 8)) :=
  (if_neg (by simp [hv])).trans (if_neg (by simp [he]))

end extSeq

/-- Settles O36: the branches in the order of the two tests. -/
theorem extSeqResult : Obligations.ExtSeqResult :=
  fun l _ => ⟨exec_extSeq_of_invalid l, exec_extSeq_of_extended l, exec_extSeq_of_unextended l⟩

/-! ### The branches of EXT_WS (R151) -/

section extWs
variable {s : State} (l : U64)

theorem exec_extWs_of_invalid (hv : s.msg.valid = false) :
    exec (.extWs l) s = .next (s.setRes (Res.failure 9 (.badCommand .noMessage))) :=
  if_pos hv

variable (hv : s.msg.valid = true)
include hv

theorem exec_extWs_of_wrongVariant (hw : hasWindow s.msg.variant = false) :
    exec (.extWs l) s = .next (s.setRes (Res.failure 9 (.badCommand (.wrongVariant s.msg.variant)))) :=
  (if_neg (by simp [hv])).trans (if_pos hw)

variable (hw : hasWindow s.msg.variant = true)
include hw

theorem exec_extWs_of_extended (he : s.msg.wsExt = true) :
    exec (.extWs l) s = .next (s.setRes (Res.failure 9 (.badCommand .alreadyExtended))) :=
  (if_neg (by simp [hv])).trans ((if_neg (by simp [hw])).trans (if_pos he))

theorem exec_extWs_of_unextended (he : s.msg.wsExt = false) :
    exec (.extWs l) s =
      .next ((s.setMsg { s.msg with windowStart := l, wsExt := true }).setRes (Res.success 9)) :=
  (if_neg (by simp [hv])).trans ((if_neg (by simp [hw])).trans (if_neg (by simp [he])))

end extWs

/-- The selector of a message's variant as `RES` reports it (R28, R169). -/
theorem failure_wrongVariant (c : BitVec 4) (v : Variant) :
    Res.failure c (.badCommand (.wrongVariant v)) =
      { cmd := c, status := .badCommand, info0 := 3, info1 := (variantSelector v).setWidth 32 } := by
  rw [← BitVec.ofNat_toNat]
  rfl

/-- Settles O37: the branches in the order of the three tests, the second of which passes on ACK and KEEPALIVE only. -/
theorem extWsResult : Obligations.ExtWsResult := by
  refine fun l s => ⟨exec_extWs_of_invalid l, fun hv hack hkeep => ?_, fun hv hvar => ?_⟩
  · have hw : hasWindow s.msg.variant = false :=
      Bool.eq_false_iff.2 (mt (hasWindow_iff _).1 (not_or.2 ⟨hack, hkeep⟩))
    rw [exec_extWs_of_wrongVariant l hv hw, failure_wrongVariant]
  · have hw := (hasWindow_iff _).2 hvar
    exact ⟨exec_extWs_of_extended l hv hw, exec_extWs_of_unextended l hv hw⟩

/-! ### A success sets its flag (R150, R151, R152) -/

theorem exec_extSeq_flag_of_ok {l : U64} {s t : State} (h : exec (.extSeq l) s = .next t)
    (hok : t.res.status = .ok) : t.msg.valid = true ∧ t.msg.seqExt = true := by
  rcases exec_extSeq l s with ⟨hv, -, hdone⟩ | ⟨-, e, hbad⟩
  · cases h.symm.trans hdone
    exact ⟨hv, rfl⟩
  · cases h.symm.trans hbad
    exact absurd hok (Failure.status_ne_ok (.badCommand e))

theorem exec_extWs_flag_of_ok {l : U64} {s t : State} (h : exec (.extWs l) s = .next t)
    (hok : t.res.status = .ok) :
    t.msg.valid = true ∧ (t.msg.variant = .ack ∨ t.msg.variant = .keepalive) ∧ t.msg.wsExt = true := by
  rcases exec_extWs l s with ⟨hv, hw, -, hdone⟩ | ⟨-, e, hbad⟩
  · cases h.symm.trans hdone
    exact ⟨hv, (hasWindow_iff _).1 hw, rfl⟩
  · cases h.symm.trans hbad
    exact absurd hok (Failure.status_ne_ok (.badCommand e))

/-! ### An extended field stays as it is while the message lasts (R152, R193) -/

/-- `m'` is still the message that `m` is: valid, of the same variant, each extended field with its flag and value. -/
def Message.KeepsExtended (m m' : Message) : Prop :=
  m'.valid = true ∧ m'.variant = m.variant ∧
  (m.seqExt = true → m'.seqExt = true ∧ m'.seq = m.seq) ∧
  (m.wsExt = true → m'.wsExt = true ∧ m'.windowStart = m.windowStart)

theorem Message.KeepsExtended.refl {m : Message} (hv : m.valid = true) : m.KeepsExtended m :=
  ⟨hv, rfl, fun he => ⟨he, rfl⟩, fun he => ⟨he, rfl⟩⟩

/-- The codes of the commands that write `MSG`: PARSE, EXT_SEQ and EXT_WS (R79). -/
theorem code_of_mem_msgWriters : ∀ c : BitVec 4, c.toNat ∈ [2, 8, 9] → c = 0x2 ∨ c = 0x8 ∨ c = 0x9 := by decide

section keepsExtended
variable {s t : State} (hv : s.msg.valid = true)
include hv

/-- EXT_SEQ writes `seq` only where the flag is 0. -/
theorem exec_extSeq_keepsExtended {l : U64} (h : exec (.extSeq l) s = .next t) : s.msg.KeepsExtended t.msg := by
  rcases exec_extSeq l s with ⟨-, hflag, hdone⟩ | ⟨-, e, hbad⟩
  · cases h.symm.trans hdone
    exact ⟨hv, rfl, fun he => absurd (he.symm.trans hflag) (by decide), fun he => ⟨he, rfl⟩⟩
  · cases h.symm.trans hbad
    exact .refl hv

/-- EXT_WS writes `window_start` only where the flag is 0. -/
theorem exec_extWs_keepsExtended {l : U64} (h : exec (.extWs l) s = .next t) : s.msg.KeepsExtended t.msg := by
  rcases exec_extWs l s with ⟨-, -, hflag, hdone⟩ | ⟨-, e, hbad⟩
  · cases h.symm.trans hdone
    exact ⟨hv, rfl, fun he => ⟨he, rfl⟩, fun he => absurd (he.symm.trans hflag) (by decide)⟩
  · cases h.symm.trans hbad
    exact .refl hv

/-- Of the commands other than PARSE only the two extend commands write `MSG`. -/
theorem runCommand_keepsExtended {w : CommandWord} (hparse : w.code ≠ 0x2) (h : runCommand w s = .next t) :
    s.msg.KeepsExtended t.msg := by
  by_cases hmsg : t.msg = s.msg
  · rw [hmsg]
    exact .refl hv
  · obtain ⟨-, -, -, hwriters, -⟩ := (runCommand_next h).frame
    obtain ⟨c, o⟩ := w
    rcases code_of_mem_msgWriters c (hwriters hmsg) with rfl | rfl | rfl
    · exact absurd rfl hparse
    · exact exec_extSeq_keepsExtended hv (l := o.logical) h
    · exact exec_extWs_keepsExtended hv (l := o.logical) h

/-- A host action other than PARSE, a host write and reset is another command or a read. -/
theorem runAction_keepsExtended {a : HostAction} (h : runAction a s = .next t) (hreset : a ≠ .reset)
    (hwrite : ∀ b, a ≠ .wrRxh b ∧ a ≠ .wrRxt b) (hparse : ∀ w, a = .command w → w.code ≠ 0x2) :
    s.msg.KeepsExtended t.msg := by
  cases a with
  | command w => exact runCommand_keepsExtended hv (hparse w rfl) h
  | wrRxh b => exact absurd rfl (hwrite b).1
  | wrRxt b => exact absurd rfl (hwrite b).2
  | rdTx | rdMsg | rdRes =>
    cases h
    exact .refl hv
  | reset => exact absurd rfl hreset

end keepsExtended

/-! ### What replaces the message takes both flags back (R152) -/

/-- PARSE leaves a message just received, or the invalid one. -/
theorem exec_parse_clears_flags {s t : State} (h : exec .parse s = .next t) :
    t.msg.seqExt = false ∧ t.msg.wsExt = false := by
  rcases exec_parse_cases s with ⟨v, -, -, hnib, -, -, hframe⟩ | ⟨e, k, -, hbad⟩
  · obtain ⟨m, hexec, -, -, -, -, hseq, hws, -⟩ := exec_ofFrame (frameFields s.rx) v (s.setPos s.rx.length) hnib
    cases h.symm.trans (hframe.trans hexec)
    exact ⟨hseq, hws⟩
  · cases h.symm.trans hbad
    exact ⟨rfl, rfl⟩

theorem runAction_clears_flags {a : HostAction} {s t : State} (h : runAction a s = .next t)
    (ha : a = .reset ∨ (∃ b, a = .wrRxh b ∨ a = .wrRxt b) ∨ ∃ w, a = .command w ∧ w.code = 0x2) :
    t.msg.seqExt = false ∧ t.msg.wsExt = false := by
  rcases ha with rfl | ⟨b, rfl | rfl⟩ | ⟨⟨c, o⟩, rfl, hc⟩
  · cases h
    exact ⟨rfl, rfl⟩
  · obtain ⟨-, rfl⟩ := writeRxh_next h
    exact ⟨rfl, rfl⟩
  · obtain ⟨-, rfl⟩ := writeRxt_next h
    exact ⟨rfl, rfl⟩
  · cases hc
    exact exec_parse_clears_flags h

/-- Settles O38: a success sets the flag, a set flag rejects, the actions that leave the message leave what is extended
in it, and the others leave both flags 0. -/
theorem extendIsOneShot : Obligations.ExtendIsOneShot := by
  refine fun s t => ⟨fun l => exec_extSeq_flag_of_ok, fun l => exec_extWs_flag_of_ok,
    fun hv he l => exec_extSeq_of_extended l hv he,
    fun hv hvar he l => exec_extWs_of_extended l hv ((hasWindow_iff _).2 hvar) he,
    fun a rest hp h hv => ?_, fun a rest hp h => ?_⟩
  · rw [step_cons hp] at h
    exact runAction_keepsExtended (s := s.setPort rest) hv h
  · rw [step_cons hp] at h
    exact runAction_clears_flags h

end Sys2Proof.Machine

/-! SUPPORT. Proofs of the statements about how a command ends: what a parse failure, an `EncodeReject` and a
`BadCommand` write and leave, that every command completes with its own code in `RES`, and that a valid message and a
filled `TX` come from a success (60_exceptions.md). -/

namespace Sys2Proof.Machine

/-! ### What a parse failure writes (R166) -/

/-- The raw opcode nibble as a diagnostic word (R28, R164). -/
theorem failure_unsupportedOpcode (op : BitVec 4) : Res.failure 2 (.parse (.unsupportedOpcode op)) =
    { cmd := 2, status := .unsupportedOpcode, info0 := op.setWidth 32, info1 := 0 } := by
  rw [← BitVec.ofNat_toNat]
  rfl

/-- Settles O17: PARSE raises the decoder's failure at that failure's cursor, a constructor's own is raised at `n`. -/
theorem parseFailureClearsTheMessage : Obligations.ParseFailureClearsTheMessage := by
  refine ⟨fun s e h => ?_, fun f s got bound => receive_inr f (.invalidLength got bound) s⟩
  have hfail := exec_parse_of_badFrame h
  cases e with
  | truncated n => exact hfail
  | invalidLength got bound => exact hfail
  | lengthMismatch declared actual => exact hfail
  | unsupportedOpcode op =>
    rw [failure_unsupportedOpcode] at hfail
    exact hfail

/-! ### What the two rejects leave (R27, R167, R168) -/

/-- What PARSE and the frame instructions record: a success or a parse failure (R165, R166). -/
def Res.OfParse (r : Res) : Prop := r = Res.success 2 ∨ ∃ e, r = Res.failure 2 (.parse e)

theorem exec_ofFrame_res {f : Frame} {v : Variant} {s t : State} (h : exec (.ofFrame f v) s = .next t) :
    t.res.OfParse := by
  by_cases hnib : v = .data → f.nibble.toNat ≤ 12
  · cases h.symm.trans (exec_ofFrame_eq f v s hnib)
    exact .inl rfl
  · obtain ⟨rfl, hlt⟩ := Classical.not_imp.1 hnib
    have hraise : exec (.ofFrame f .data) s =
        raise 0x2 (.parse (.invalidLength f.nibble.toNat 12)) (s.setPos 16) := if_pos (Nat.not_le.1 hlt)
    cases h.symm.trans hraise
    exact .inr ⟨_, rfl⟩

theorem exec_parse_res {s t : State} (h : exec .parse s = .next t) : t.res.OfParse := by
  rcases exec_parse_cases s with ⟨v, -, -, -, -, -, hframe⟩ | ⟨e, k, -, hbad⟩
  · exact exec_ofFrame_res (hframe.symm.trans h)
  · cases h.symm.trans hbad
    exact .inr ⟨e, rfl⟩

/-- An instruction that answers `t` records no reject, or it is an ENC command that only empties `TX` and writes `RES`
with `EncodeReject`, or it only writes `RES` with `BadCommand`. -/
def RejectCases (i : Instr) (s t : State) : Prop :=
  (t.res.status ≠ .encodeReject ∧ t.res.status ≠ .badCommand) ∨
  ((encodedData2 i).isSome ∧ ∃ r, r.status = .encodeReject ∧ t = (s.setRes r).setTx []) ∨
  (∃ r, r.status = .badCommand ∧ t = s.setRes r)

theorem Res.OfParse.rejectCases {i : Instr} {s t : State} (h : t.res.OfParse) : RejectCases i s t := by
  refine .inl ?_
  rcases h with hok | ⟨e, hbad⟩
  · rw [hok]
    exact ⟨nofun, nofun⟩
  · rw [hbad]
    cases e <;> exact ⟨nofun, nofun⟩

theorem exec_enc_rejectCases {i : Instr} {d2 : Bytes} {s t : State} (hi : encodedData2 i = some d2)
    (h : exec i s = .next t) : RejectCases i s t := by
  obtain ⟨c, -, -, hcases⟩ := exec_enc hi
  rcases hcases s with ⟨v, cid, seq, d1, -, -, hemit⟩ | ⟨e, hreject⟩
  · cases h.symm.trans hemit
    exact .inl ⟨nofun, nofun⟩
  · cases h.symm.trans hreject
    exact .inr (.inl ⟨Option.isSome_of_eq_some hi, _, rfl, rfl⟩)

theorem exec_extSeq_rejectCases {l : U64} {s t : State} (h : exec (.extSeq l) s = .next t) :
    RejectCases (.extSeq l) s t := by
  rcases exec_extSeq l s with ⟨-, -, hdone⟩ | ⟨-, e, hbad⟩
  · cases h.symm.trans hdone
    exact .inl ⟨nofun, nofun⟩
  · cases h.symm.trans hbad
    exact .inr (.inr ⟨_, rfl, rfl⟩)

theorem exec_extWs_rejectCases {l : U64} {s t : State} (h : exec (.extWs l) s = .next t) :
    RejectCases (.extWs l) s t := by
  rcases exec_extWs l s with ⟨-, -, -, hdone⟩ | ⟨-, e, hbad⟩
  · cases h.symm.trans hdone
    exact .inl ⟨nofun, nofun⟩
  · cases h.symm.trans hbad
    exact .inr (.inr ⟨_, rfl, rfl⟩)

theorem exec_rejectCases {i : Instr} {s t : State} (h : exec i s = .next t) : RejectCases i s t := by
  cases i with
  | syn f => exact (exec_ofFrame_res (v := .syn) h).rejectCases
  | ack f => exact (exec_ofFrame_res (v := .ack) h).rejectCases
  | keepalive f => exact (exec_ofFrame_res (v := .keepalive) h).rejectCases
  | data f => exact (exec_ofFrame_res (v := .data) h).rejectCases
  | fin f => exact (exec_ofFrame_res (v := .fin) h).rejectCases
  | parse => exact (exec_parse_res h).rejectCases
  | extSeq l => exact exec_extSeq_rejectCases h
  | extWs l => exact exec_extWs_rejectCases h
  | encRaw | encSyn | encAck | encKeepalive | encData | encFin => exact exec_enc_rejectCases rfl h

/-- Settles O34: each reject is the one update of its case, and the other instructions record neither. -/
theorem rejectsLeaveTheRest : Obligations.RejectsLeaveTheRest := by
  intro i s t h
  rcases exec_rejectCases h with ⟨henc, hbad⟩ | ⟨hi, r, hr, rfl⟩ | ⟨r, hr, rfl⟩
  · exact ⟨fun hs => absurd hs henc, fun hs => absurd hs hbad⟩
  · exact ⟨fun _ => ⟨rfl, rfl, rfl, fun _ => ⟨rfl, rfl⟩, ⟨rfl, rfl, rfl⟩, hi⟩,
      fun hs => absurd (hr.symm.trans hs) (by decide)⟩
  · exact ⟨fun hs => absurd (hr.symm.trans hs) (by decide),
      fun _ => ⟨rfl, rfl, fun _ => ⟨rfl, rfl⟩, fun _ => rfl, rfl, rfl, rfl⟩⟩

/-! ### Every command completes (R160, R165 to R167, R181) -/

/-- Every way a command ends records the command's code. -/
theorem CommandEffect.res_cmd {c : BitVec 4} {s t : State} (h : CommandEffect c s t) : t.res.cmd = c := by
  cases h with
  | parseOk m k hc => exact hc.symm
  | parseBad e k hc => exact hc.symm
  | extSeq l hc => exact hc.symm
  | extWs l hc => exact hc.symm
  | encOk | encBad | bad => rfl

/-- Settles O45: the step is the command, which has one of its effects once it has left the port. -/
theorem everyCommandCompletesAndWritesRes : Obligations.EveryCommandCompletesAndWritesRes := by
  intro s w rest hp
  obtain ⟨t, ht, he⟩ := runCommand_effect w (s.setPort rest)
  obtain ⟨-, -, -, -, -, -, hport, -⟩ := he.frame
  exact ⟨t, (step_cons hp).trans ht, he.res_cmd, hport⟩

/-! ### Where a valid message and a filled `TX` come from (R181) -/

section origin
variable {c : BitVec 4} {s t : State} (h : CommandEffect c s t)
include h

/-- After a PARSE the message is valid exactly when the status is OK. -/
theorem CommandEffect.valid_iff_ok_of_parse (hc : c.toNat = 2) : t.msg.valid = true ↔ t.res.status = .ok := by
  cases h with
  | parseOk m k _ _ hv => exact iff_of_true hv rfl
  | parseBad e => exact iff_of_false nofun (Failure.status_ne_ok _)
  | extSeq l h8 => exact absurd hc (by rw [h8]; decide)
  | extWs l h9 => exact absurd hc (by rw [h9]; decide)
  | encOk _ _ _ _ _ _ _ hmem => exact absurd hmem (by rw [hc]; decide)
  | encBad _ hmem => exact absurd hmem (by rw [hc]; decide)
  | bad _ hmem => exact absurd hmem (by rw [hc]; decide)

/-- The other commands, the extend commands among them, leave the message valid or invalid as it was. -/
theorem CommandEffect.valid_eq_of_not_parse (hc : c.toNat ≠ 2) : t.msg.valid = s.msg.valid := by
  cases h with
  | parseOk m k h2 => exact absurd (congrArg BitVec.toNat h2) hc
  | parseBad e k h2 => exact absurd (congrArg BitVec.toNat h2) hc
  | encOk | encBad | extSeq | extWs | bad => rfl

/-- After an ENC command `TX` holds at least a header if the status is OK, and is empty otherwise. -/
theorem CommandEffect.tx_of_enc (hc : c.toNat ∈ [1, 3, 4, 5, 6, 7]) :
    (t.res.status = .ok → 23 ≤ t.tx.length) ∧ (t.res.status ≠ .ok → t.tx = []) := by
  cases h with
  | encOk v cid seq d1 d2 h1 =>
    have hlen := encodeFrame_length s.params v cid seq d2 h1
    exact ⟨fun _ => hlen ▸ Nat.le_add_right 23 _, fun hne => absurd rfl hne⟩
  | encBad e => exact ⟨fun hok => absurd hok (Failure.status_ne_ok (.encodeReject e)), fun _ => rfl⟩
  | parseOk m k h2 => exact absurd hc (by rw [h2]; decide)
  | parseBad e k h2 => exact absurd hc (by rw [h2]; decide)
  | extSeq l h8 => exact absurd hc (by rw [h8]; decide)
  | extWs l h9 => exact absurd hc (by rw [h9]; decide)
  | bad e hmem =>
    simp only [List.mem_cons, List.not_mem_nil, or_false] at hc hmem
    omega

/-- A command that changes whether `MSG` is valid is PARSE, and its status says which way. -/
theorem CommandEffect.parse_of_valid_ne (hne : t.msg.valid ≠ s.msg.valid) :
    c.toNat = 2 ∧ (t.msg.valid = true ↔ t.res.status = .ok) := by
  have hc : c.toNat = 2 := by_contra fun hc => hne (h.valid_eq_of_not_parse hc)
  exact ⟨hc, h.valid_iff_ok_of_parse hc⟩

/-- A command that changes `TX` is an ENC command, and its status says whether `TX` is now filled. -/
theorem CommandEffect.enc_of_tx_ne (hne : t.tx ≠ s.tx) :
    c.toNat ∈ [1, 3, 4, 5, 6, 7] ∧ (t.tx ≠ [] ↔ t.res.status = .ok) := by
  obtain ⟨-, -, hwriters, -⟩ := h.frame
  obtain ⟨hok, hbad⟩ := h.tx_of_enc (hwriters hne)
  refine ⟨hwriters hne, not_imp_comm.1 hbad, fun hs htx => ?_⟩
  exact absurd (hok hs) (by rw [htx]; decide)

end origin

/-- Settles O47: a command that changes either is PARSE or an ENC command, a host write and reset leave the invalid
message, and of the other actions only reset writes `TX`. -/
theorem validMessageAndFilledTxComeFromSuccess : Obligations.ValidMessageAndFilledTxComeFromSuccess := by
  intro s t a rest hp h
  cases step_next hp h with
  | command w _ he =>
    refine ⟨fun hs ht => ?_, fun hs ht => ?_, ?_, ?_, fun hs ht => ?_, fun hs ht => ?_⟩
    · obtain ⟨hc, hiff⟩ := he.parse_of_valid_ne (by simp [hs, ht])
      exact ⟨w, rfl, hc, hiff.1 ht⟩
    · obtain ⟨hc, hiff⟩ := he.parse_of_valid_ne (by simp [hs, ht])
      exact .inr (.inr ⟨w, rfl, hc, hiff.not.1 (by simp [ht])⟩)
    · rintro _ ⟨⟩
      exact he.valid_iff_ok_of_parse
    · rintro _ ⟨⟩
      exact he.tx_of_enc
    · obtain ⟨hc, hiff⟩ := he.enc_of_tx_ne (by simpa [hs] using ht)
      exact ⟨w, rfl, hc, hiff.1 ht⟩
    · obtain ⟨hc, hiff⟩ := he.enc_of_tx_ne (by simpa [ht] using hs.symm)
      exact .inr ⟨w, rfl, hc, fun hok => hiff.2 hok ht⟩
  | wrRxh b hb =>
    exact ⟨fun _ => nofun, fun _ _ => .inr (.inl ⟨b, .inl rfl⟩), nofun, nofun,
      fun hs ht => absurd hs ht, fun hs ht => absurd ht hs⟩
  | wrRxt b hb =>
    exact ⟨fun _ => nofun, fun _ _ => .inr (.inl ⟨b, .inr rfl⟩), nofun, nofun,
      fun hs ht => absurd hs ht, fun hs ht => absurd ht hs⟩
  | read a r ha =>
    have hcommand (w : CommandWord) : a ≠ .command w := by
      rintro rfl
      simp at ha
    exact ⟨fun hs ht => absurd (hs.symm.trans ht) (by decide), fun hs ht => absurd (hs.symm.trans ht) (by decide),
      fun w hw => absurd hw (hcommand w), fun w hw => absurd hw (hcommand w),
      fun hs ht => absurd hs ht, fun hs ht => absurd ht hs⟩
  | reset =>
    exact ⟨fun _ => nofun, fun _ _ => .inl rfl, nofun, nofun, fun _ ht => absurd rfl ht, fun _ _ => .inl rfl⟩

end Sys2Proof.Machine

/-! SUPPORT. Proofs of the statements about reset: what the reset event writes, and what the commands answer straight
after it (70_reset_and_hazards.md). -/

namespace Sys2Proof.Machine

/-! ### The reset event (R190, R192) -/

/-- A step that takes reset off the port answers the reset state with the parameters, the actions still to come and
the last reply of the state before. -/
theorem step_reset {s : State} {rest : List HostAction} (h : s.port = .reset :: rest) :
    step s = .next { State.reset with params := s.params, port := rest, reply := s.reply } :=
  step_cons h

/-- Settles O2: each clause is one item of the state that the step answers. -/
theorem resetEventSetsEveryItem : Obligations.ResetEventSetsEveryItem :=
  fun _ _ h => ⟨_, step_reset h, rfl, rfl, rfl, rfl, rfl, rfl, rfl, rfl, rfl⟩

/-! ### Straight after reset (R191) -/

/-- PARSE of empty receive buffers, with `MSG` and the cursor still at their reset values: the failure's writes to both
have no effect, and `RES` alone changes. -/
theorem exec_parse_of_empty {s : State} (hrx : s.rx = []) (hmsg : s.msg = State.reset.msg) (hpos : s.pos = 0) :
    exec .parse s = .next (s.setRes { cmd := 2, status := .truncated, info0 := 0, info1 := 23 }) := by
  obtain ⟨hshort, -⟩ := shortFrameIsTruncated s
  rw [hshort (by simp [hrx]), hrx, ← hpos, ← hmsg, setPos_self]
  rfl

/-- Settles O3: the reset state has empty receive buffers and the invalid message, and an ENC command writes one `TX`
and one `RES` from any two states with the same parameters. -/
theorem commandsStraightAfterReset : Obligations.CommandsStraightAfterReset := by
  refine fun p => ⟨exec_parse_of_empty rfl rfl rfl, fun l => exec_extSeq_of_invalid l rfl,
    fun l => exec_extWs_of_invalid l rfl, fun i d2 s hi hp => ?_⟩
  obtain ⟨tx, res, hs, hreset⟩ := encCommandsArePure i d2 s { State.reset with params := p } hi hp
  exact ⟨_, _, hs, hreset, rfl, rfl⟩

end Sys2Proof.Machine
